-- ==== Sys2Proof/Word.lean ====
section
/-! DEFINITION. The word of the block: 32 bits with no meaning of their own (R5, R8). -/

namespace Sys2Proof

/-- A word: 32 bits. `u32` and `i32` are its two readings, `BitVec.toNat` and `BitVec.toInt` (R8). -/
abbrev Word := BitVec 32

end Sys2Proof
end

