-- ==== Sys2Proof/Machine/Bits.lean ====
section
/-! DEFINITION. The arithmetic and bit primitives of R9, and `spread` of R165. -/

namespace Sys2Proof.Machine

/-- sat32: an exact integer brought into i32 (R9). -/
def sat32 (v : Int) : Word :=
  if v > 2 ^ 31 - 1 then BitVec.ofInt 32 (2 ^ 31 - 1)
  else if v < -(2 ^ 31) then BitVec.ofInt 32 (-(2 ^ 31))
  else BitVec.ofInt 32 v

/-- asr: floor(v / 2^s) (R9). The divisor is positive, so `Int`'s division is the floor. -/
def asr (v : Int) (s : Nat) : Int := v / 2 ^ s

/-- The number whose bit `k` is `f k`, for `k < n`: the sums of powers of two of R9 and R165. -/
def packBits (f : Nat → Bool) : Nat → Nat
  | 0 => 0
  | n + 1 => packBits f n + (f n).toNat * 2 ^ n

/-- popcount: how many of the low `n` bits of `w` are 1. -/
def countOnes (w : Word) : Nat → Nat
  | 0 => 0
  | n + 1 => countOnes w n + (w.getLsbD n).toNat

/-- popcount(w) (R9). -/
def popcount (w : Word) : Nat := countOnes w 32

/-- ce(w): the even bits of `w` compressed into 16 bits (R9). -/
def ce (w : Word) : BitVec 16 := BitVec.ofNat 16 (packBits (fun k => w.getLsbD (2 * k)) 16)

/-- co(w): the odd bits of `w` compressed into 16 bits (R9). -/
def co (w : Word) : BitVec 16 := BitVec.ofNat 16 (packBits (fun k => w.getLsbD (2 * k + 1)) 16)

/-- spread(e, o): bit `k` of `e` at bit 2k, bit `k` of `o` at bit 2k + 1 (R165). -/
def spread (e o : BitVec 16) : Word :=
  BitVec.ofNat 32 (packBits (fun n => if n % 2 = 0 then e.getLsbD (n / 2) else o.getLsbD (n / 2)) 32)

end Sys2Proof.Machine
end

