-- ==== Sys2Proof/Config.lean ====
section
/-! DEFINITION. What an implementation of the block fixes: the parameters of R5, and the values the spec leaves open. -/

namespace Sys2Proof

/-- History words per channel, H (R5). -/
def Config.histWords : Nat := 8

/-- Stage-1 taps, S1_TAPS = 32 x H (R5). -/
def Config.s1Taps : Nat := 256

/-- The value a PDM bit has in the stage-1 sum, parameter S1_BIT_MAP (R5, R182). -/
inductive BitMap where
  | unipolar
  | bipolar
  deriving DecidableEq, Repr

/-- The OPEN parameters of R5. They are arguments of the model: State carries them, no step changes them, and every
statement holds for all of their well-formed values (log 5). -/
structure Params where
  /-- BUFMEM_WORDS, the size of the buffer memory in words. -/
  bufmemWords : Nat
  /-- S2_TAPS_MAX, the size of the stage-2 coefficient memory. -/
  s2TapsMax : Nat
  /-- HIST_INIT, the initial pattern of the history windows. -/
  histInit : Word
  /-- S1_BIT_MAP. -/
  bitMap : BitMap
  deriving DecidableEq, Repr

/-- The values the parameters may take: S2_TAPS_MAX in 1..255 (R36), HIST_INIT non-zero (R5). BUFMEM addresses are held
in 32-bit registers (R37, R44, R45), so BUFMEM has at most 2^32 words (log 13, DEDUCED). -/
abbrev Params.wf (p : Params) : Prop :=
  1 ≤ p.s2TapsMax ∧ p.s2TapsMax ≤ 255 ∧ p.histInit ≠ 0#32 ∧ p.bufmemWords ≤ 2 ^ 32

/-- The defaults of R5. R5 gives BUFMEM_WORDS no default: 64 is the size 95_test_vectors.md uses (log 5, DESIGN
CHOICE). -/
def Params.default : Params :=
  { bufmemWords := 64, s2TapsMax := 128, histInit := 0x55555555#32, bitMap := .unipolar }

/-- The words RESET leaves in DL and FRM (U8: any value): the n-th word drawn since the model started (log 4). -/
opaque Config.freeWord : Nat → Word

/-- The phases RESET leaves in PH (U8: any value), drawn as `Config.freeWord` is (log 4). -/
opaque Config.freePhase : Nat → BitVec 16

end Sys2Proof
end

