-- ==== Sys2Proof/Machine/State.lean ====
section
/-! DEFINITION. The state of the block as plain data, the reasons a step can stop, and the state after reset
(10_state.md; 20_memory.md R70 to R74). -/

namespace Sys2Proof.Machine

/-! ## Named values -/

/-- STATE, the run state of the block (R42). The value 3 is never read and is not represented (U16). -/
inductive RunState where
  | idle
  | running
  | fault
  deriving DecidableEq, Repr

/-- ERR, the setup error code (R284). -/
inductive SetupError where
  | none
  | badChannels
  | badDecim
  | badS2Taps
  | bufSizeMismatch
  | bufRange
  deriving DecidableEq, Repr

/-- CSTATE, the controller state (R45, R220). -/
inductive CState where
  | await
  | deint
  | filt
  | emit
  deriving DecidableEq, Repr

/-- The model fault kinds (R285 to R288). -/
inductive ModelFault where
  /-- The producer was about to write into the region the consumer holds (R286). -/
  | tear
  /-- A buffer was published into a full handoff slot (R287). -/
  | slotOverrun
  /-- A word no write has marked since reset was read (R288). -/
  | uninitRead
  deriving DecidableEq, Repr

/-- The events of the event history (R49). -/
inductive Event where
  | port (w : Word)
  | publish (addr : Word)
  | take (addr : Word)
  | frame (samples : List Word)
  | reset
  deriving DecidableEq, Repr

/-! ## Memory -/

/-- A word-addressed memory: the words marked written, with their addresses strictly rising. An unlisted address is
unmarked and has no value (R72, R74; log 6, log 7). -/
abbrev Memory := List (Nat × Word)

/-- The canonical form: addresses strictly rising. Equal memories are then equal lists. -/
abbrev Memory.wf (m : Memory) : Prop := List.Pairwise (fun x y => x.1 < y.1) m

/-! ## The state -/

/-- What the block keeps per channel outside BUFMEM (R46, R47). -/
@[ext]
structure Channel where
  /-- DL[c], newest stage-1 output first. -/
  dl : List Word
  /-- PH[c]. -/
  ph : BitVec 16
  /-- FRM[c]. -/
  frm : Word
  deriving DecidableEq, Repr

/-- Everything the spec gives the block, and the model's own fields at the end. -/
@[ext]
structure State where
  /-- The OPEN parameters of R5; no step writes them (log 5). -/
  params : Params
  /-- CFG.CHANNELS (R35). -/
  channels : BitVec 4
  /-- CFG.S2_SHIFT (R35). -/
  s2Shift : BitVec 6
  /-- CFG.DECIM (R35). -/
  decim : BitVec 16
  /-- S2_NTAPS.NTAPS (R36). -/
  ntaps : BitVec 8
  /-- BUF_BASE (R37). -/
  bufBase : Word
  /-- BUF_WORDS (R38). -/
  bufWords : Word
  /-- S1_COEF with its written marks (R40, R74). -/
  s1Coef : Memory
  /-- S2_COEF with its written marks (R41, R74). -/
  s2Coef : Memory
  /-- STATE (R42). -/
  runState : RunState
  /-- ERR (R42). -/
  err : SetupError
  /-- ACTIVE: the region the producer fills (R43). -/
  active : BitVec 1
  /-- COUNT: the producer's countdown (R43). -/
  count : BitVec 18
  /-- SLOT_FULL (R44). -/
  slotFull : Bool
  /-- SLOT_ADDR (R44). -/
  slotAddr : Word
  /-- CSTATE (R45). -/
  cstate : CState
  /-- CH (R45). -/
  ch : BitVec 1
  /-- WIX (R45). -/
  wix : BitVec 16
  /-- CUR_VALID (R45). -/
  curValid : Bool
  /-- CUR (R45). -/
  cur : Word
  /-- DL[0], PH[0], FRM[0] (R46, R47). -/
  chan0 : Channel
  /-- DL[1], PH[1], FRM[1] (R46, R47). -/
  chan1 : Channel
  /-- BUFMEM with its written marks; the history windows live in it (R48, R70, R74). -/
  bufmem : Memory
  /-- FAULTED (R49). -/
  faulted : Option ModelFault
  /-- The event history, oldest first (R49). -/
  history : List Event
  /-- The model's own: the operation words still to run (log 1). -/
  stimulus : List Word
  /-- The model's own: the words MMIO_RD has returned to the host, oldest first (R252, log 9). -/
  hostReads : List Word
  /-- The model's own: how many free words RESET has drawn (log 4). -/
  draws : Nat
  deriving DecidableEq, Repr

/-! ## Reset -/

/-- A channel right after power-on: the spec leaves it unspecified (R46, R47), the model names zero (log 3, DESIGN
CHOICE). -/
def Channel.zero (p : Params) : Channel :=
  { dl := List.replicate p.s2TapsMax 0#32, ph := 0#16, frm := 0#32 }

/-- The block with parameters `p` right after power-on, which takes the effect of RESET (R310, R311): every register at
its reset value, no word marked written, the event history [RESET] (log 2). -/
def State.resetWith (p : Params) : State :=
  { params := p
    channels := 0#4, s2Shift := 0#6, decim := 0#16, ntaps := 0#8, bufBase := 0#32, bufWords := 0#32
    s1Coef := [], s2Coef := []
    runState := .idle, err := .none
    active := 0#1, count := 0#18, slotFull := false, slotAddr := 0#32
    cstate := .await, ch := 0#1, wix := 0#16, curValid := false, cur := 0#32
    chan0 := Channel.zero p, chan1 := Channel.zero p
    bufmem := []
    faulted := none, history := [.reset]
    stimulus := [], hostReads := [], draws := 0 }

/-- The machine right after reset, with the default parameters (R5, R310). -/
def State.reset : State := State.resetWith Params.default

/-! ## Stops -/

/-- Why the machine stops with a fault. -/
inductive Fault where
  /-- Raised by every operation but RESET in a state where FAULTED is set: no agent steps while it is set (R49, R285).
  Safe: the model stops where the hardware runs on with undefined data. -/
  | modelFaulted (k : ModelFault)
  /-- Raised by a consumer step that is not enabled: the run is stuck there (R221, R290). Safe: the hardware has no such
  step. -/
  | notEnabled
  /-- Raised by a BUFMEM access at a word address outside BUFMEM, which no rule forms in a state a run reaches (R72; log
  11). Safe. -/
  | noSuchWord (address : Nat)
  deriving DecidableEq, Repr

/-- Why the machine gives an operation no meaning. -/
inductive Refusal where
  /-- Raised only by an arm of exec whose instruction has no meaning yet. Safe. -/
  | notModelled (mnemonic : String)
  /-- Raised by fetching when the pending sequence holds an INVALID word, with that word's index: the whole sequence is
  refused (R107, R289). Safe: the hardware never sees such a word. -/
  | invalidSequence (index : Nat)
  deriving DecidableEq, Repr

/-- What one step answers. -/
abbrev Result := Host.Outcome State Fault Refusal

end Sys2Proof.Machine
end

