-- ==== Sys2Proof/Machine/Ops.lean ====
section
/-! DEFINITION. The named operations over the state: derived sizes and addresses, memory, the event history, raising a
model fault, and the guards on which a step runs. -/

namespace Sys2Proof.Machine

/-! ## Derived sizes and addresses (R6, R73) -/

/-- C, the configured channel count. -/
def State.numChannels (s : State) : Nat := s.channels.toNat

/-- D, the configured decimation factor. -/
def State.decimation (s : State) : Nat := s.decim.toNat

/-- L = C * D, the length of a region in words (R6). -/
def State.regionLen (s : State) : Nat := s.numChannels * s.decimation

/-- REQ = 2 * C * D + C * H, exact (R6, R39). -/
def State.reqSize (s : State) : Nat :=
  2 * s.numChannels * s.decimation + s.numChannels * Config.histWords

/-- base(r) = BUF_BASE + r * L (R73). -/
def State.regionBase (s : State) (r : BitVec 1) : Nat := s.bufBase.toNat + r.toNat * s.regionLen

/-- hist(c) = BUF_BASE + 2 * L + c * H (R73). -/
def State.histBase (s : State) (c : Nat) : Nat :=
  s.bufBase.toNat + 2 * s.regionLen + c * Config.histWords

/-! ## One memory -/

/-- The word at `a`, or none where it carries no written mark (R74). -/
def Memory.read : Memory → Nat → Option Word
  | [], _ => none
  | (b, w) :: rest, a => if b = a then some w else Memory.read rest a

/-- Write the word at `a` and mark it (R72, R74). -/
def Memory.write : Memory → Nat → Word → Memory
  | [], a, v => [(a, v)]
  | (b, w) :: rest, a, v =>
    if a < b then (a, v) :: (b, w) :: rest
    else if a = b then (a, v) :: rest
    else (b, w) :: Memory.write rest a v

/-! ## Why a step is abandoned -/

/-- What stops a step in its middle. -/
inductive Halt where
  /-- A model fault is raised (R285). -/
  | raised (k : ModelFault)
  /-- BUFMEM has no word at this address (log 11). -/
  | noWord (a : Nat)
  deriving DecidableEq, Repr

/-- raise Fault(k): FAULTED <- k; the step is abandoned at that point, with what it did before (R285, log 8). -/
def State.raise (s : State) (k : ModelFault) : State := { s with faulted := some k }

/-- What a step answers when it is abandoned in state `s`. -/
def Halt.outcome (h : Halt) (s : State) : Result :=
  match h with
  | .raised k => .next (s.raise k)
  | .noWord a => .fault (.noSuchWord a)

/-! ## BUFMEM (R72) -/

/-- Replace BUFMEM and its written marks. -/
def State.setBufmem (s : State) (m : Memory) : State := { s with bufmem := m }

/-- MemRead(a, 1). -/
def State.memRead (s : State) (a : Nat) : Except Halt Word :=
  if a < s.params.bufmemWords then
    match s.bufmem.read a with
    | some w => .ok w
    | none => .error (.raised .uninitRead)
  else .error (.noWord a)

/-- MemWrite(a, 1, v). -/
def State.memWrite (s : State) (a : Nat) (v : Word) : Except Halt State :=
  if a < s.params.bufmemWords then .ok (s.setBufmem (s.bufmem.write a v))
  else .error (.noWord a)

/-- MemRead of the `n` words from `a` up, lowest address first. -/
def State.memReads (s : State) (a : Nat) : Nat → Except Halt (List Word)
  | 0 => .ok []
  | n + 1 =>
    match s.memRead a with
    | .error h => .error h
    | .ok w =>
      match s.memReads (a + 1) n with
      | .error h => .error h
      | .ok ws => .ok (w :: ws)

/-- MemWrite of the listed words from `a` up, lowest address first. -/
def State.memWrites (s : State) (a : Nat) : List Word → Except Halt State
  | [] => .ok s
  | v :: vs =>
    match s.memWrite a v with
    | .error h => .error h
    | .ok s' => s'.memWrites (a + 1) vs

/-! ## The coefficient memories -/

/-- The `n` coefficients from index `k` up; an unwritten one raises UNINIT_READ (R74, R183, R204). -/
def readCoefs (m : Memory) (k : Nat) : Nat → Except Halt (List Word)
  | 0 => .ok []
  | n + 1 =>
    match m.read k with
    | none => .error (.raised .uninitRead)
    | some w =>
      match readCoefs m (k + 1) n with
      | .error h => .error h
      | .ok ws => .ok (w :: ws)

/-! ## The event history -/

/-- Append an event to the event history (R49). -/
def State.log (s : State) (e : Event) : State := { s with history := s.history ++ [e] }

/-! ## When a step runs -/

/-- ARMED: the port-ready interrupt is armed exactly while STATE = RUNNING (R42, R142, R291). -/
def State.armed (s : State) : Bool := s.runState == .running

/-- A step of any agent but a reset: none runs while FAULTED is set (R49, R285). -/
def State.unlessFaulted (s : State) (r : Result) : Result :=
  match s.faulted with
  | some k => .fault (.modelFaulted k)
  | none => r

/-- A consumer step: it runs when no model fault is recorded, STATE = RUNNING and its own condition holds; named
otherwise, it leaves the run stuck (R221, R290). -/
def State.consumerStep (s : State) (enabled : Bool) (r : Result) : Result :=
  s.unlessFaulted (if s.runState = .running ∧ enabled = true then r else .fault .notEnabled)

end Sys2Proof.Machine
end

