-- ==== Sys2Proof/Machine/Operands.lean ====
section
/-! DEFINITION. The operand forms: which register an MMIO offset names (R76), and the per-channel state an operation
names by its channel (R46, R47, R105). -/

namespace Sys2Proof.Machine

/-- A register of the MMIO map (R76). -/
inductive MmioReg where
  | ctrl
  | status
  | cfg
  | s2Ntaps
  | bufBase
  | bufWords
  | reqWords
  | s1Coef (t : Nat)
  | s2Coef (k : Nat)
  | unmapped
  deriving DecidableEq, Repr

/-- The register at byte offset `off` in a block whose S2_COEF has `s2TapsMax` entries (R76). An offset that is not a
multiple of 4 has no encoding and names none (R79). -/
def mmioReg (s2TapsMax : Nat) (off : BitVec 12) : MmioReg :=
  let o := off.toNat
  if o % 4 ≠ 0 then .unmapped
  else if o = 0x000 then .ctrl
  else if o = 0x004 then .status
  else if o = 0x008 then .cfg
  else if o = 0x00C then .s2Ntaps
  else if o = 0x010 then .bufBase
  else if o = 0x014 then .bufWords
  else if o = 0x018 then .reqWords
  else if o < 0x400 then .unmapped
  else if o < 0x800 then .s1Coef ((o - 0x400) / 4)
  else if (o - 0x800) / 4 < s2TapsMax then .s2Coef ((o - 0x800) / 4)
  else .unmapped

/-- DL[c], PH[c] and FRM[c] (R46, R47). -/
def State.chan (s : State) (c : BitVec 1) : Channel := if c = 0#1 then s.chan0 else s.chan1

/-- Replace DL[c], PH[c] and FRM[c]. -/
def State.setChan (s : State) (c : BitVec 1) (x : Channel) : State :=
  { s with chan0 := if c = 0#1 then x else s.chan0, chan1 := if c = 0#1 then s.chan1 else x }

end Sys2Proof.Machine
end

