-- ==== Sys2Proof/Machine/Stage1.lean ====
section
/-! DEFINITION. Stage 1, the bit-domain FIR: the window, s1_filter, shift_in and s1_step (R181 to R185). -/

namespace Sys2Proof.Machine

/-- x(W, t), the PDM bit of age `t` in a window: bit 31 - t mod 32 of word t div 32 (R181). -/
def pdmBit (window : List Word) (t : Nat) : Bool := (window.getD (t / 32) 0#32).getLsbD (31 - t % 32)

end Sys2Proof.Machine

namespace Sys2Proof

/-- m(b), the value a PDM bit contributes (R182). -/
def BitMap.value : BitMap → Bool → Int
  | .unipolar, b => if b then 1 else 0
  | .bipolar, b => if b then 1 else -1

end Sys2Proof

namespace Sys2Proof.Machine

/-- The exact sum of coefficient times bit value over the ages from `t` up, one per listed coefficient, each coefficient
read as an i32 (R183). -/
def s1Sum (m : BitMap) (window : List Word) (t : Nat) : List Word → Int
  | [] => 0
  | c :: cs => c.toInt * m.value (pdmBit window t) + s1Sum m window (t + 1) cs

/-- s1_filter over a window, for the 256 coefficients (R183). -/
def s1Filter (m : BitMap) (coefs window : List Word) : Word := sat32 (s1Sum m window 0 coefs)

/-- shift_in: the newest word in front, the oldest of the 8 dropped (R184). -/
def shiftIn (window : List Word) (w : Word) : List Word := (w :: window).take Config.histWords

/-- s1_step(c, w): the window of channel `c` takes `w`, and the filter's output is returned (R185). -/
def State.s1Step (s : State) (c : BitVec 1) (w : Word) : Except Halt (State × Word) :=
  match s.memReads (s.histBase c.toNat) Config.histWords with
  | .error h => .error h
  | .ok window =>
    match readCoefs s.s1Coef 0 Config.s1Taps with
    | .error h => .error h
    | .ok coefs =>
      match s.memWrites (s.histBase c.toNat) (shiftIn window w) with
      | .error h => .error h
      | .ok t => .ok (t, s1Filter s.params.bitMap coefs (shiftIn window w))

end Sys2Proof.Machine
end

