-- ==== Sys2Proof/Machine/Stage2.lean ====
section
/-! DEFINITION. Stage 2, the word-domain FIR: s2_push and s2_output (R203, R204). -/

namespace Sys2Proof.Machine

/-- The exact sum of coefficient times delay-line word, both read as i32, one term per listed coefficient (R204). -/
def s2Sum : List Word → List Word → Int
  | [], _ => 0
  | c :: cs, dl => c.toInt * (dl.headD 0#32).toInt + s2Sum cs dl.tail

/-- The value of s2_output for the coefficients below NT: shift with floor, then saturate once (R204). -/
def s2Filter (shift : Nat) (coefs dl : List Word) : Word := sat32 (asr (s2Sum coefs dl) shift)

/-- s2_output(c); an unwritten coefficient below NT raises UNINIT_READ (R204). -/
def State.s2Output (s : State) (c : BitVec 1) : Except Halt Word :=
  match readCoefs s.s2Coef 0 s.ntaps.toNat with
  | .error h => .error h
  | .ok coefs => .ok (s2Filter s.s2Shift.toNat coefs (s.chan c).dl)

/-- The next input of channel `c` is the D-th of its cycle (R203). -/
def State.cycleEnds (s : State) (c : BitVec 1) : Bool := (s.chan c).ph.toNat + 1 == s.decimation

/-- Channel `c` after the input `y`: the delay line shifted, newest first (R202), the phase one on, or 0 after the D-th
input of a cycle (R203). -/
def State.pushed (s : State) (c : BitVec 1) (y : Word) : Channel :=
  { dl := (y :: (s.chan c).dl).take s.params.s2TapsMax
    ph := if s.cycleEnds c then 0#16 else (s.chan c).ph + 1
    frm := (s.chan c).frm }

/-- OUT(s2_output(c)) (R203). -/
def State.s2Result (s : State) (c : BitVec 1) : Except Halt (Option Word) :=
  match s.s2Output c with
  | .error h => .error h
  | .ok v => .ok (some v)

/-- s2_push(c, y) (R203): the state it leaves, and an output on the D-th input of a cycle. -/
def State.s2Push (s : State) (c : BitVec 1) (y : Word) : State × Except Halt (Option Word) :=
  (s.setChan c (s.pushed c y),
    if s.cycleEnds c then (s.setChan c (s.pushed c y)).s2Result c else .ok none)

end Sys2Proof.Machine
end

