-- ==== Sys2Proof/Machine/Controller.lean ====
section
/-! DEFINITION. The pipeline controller's steps C_TAKE, C_STEP and C_EMIT (R220 to R229). C_DEINT stands in
Deinterleaver.lean. -/

namespace Sys2Proof.Machine

/-- The consumer receives the published buffer (R222). -/
def State.takeBuffer (s : State) : State :=
  { s with
    cur := s.slotAddr, curValid := true, slotFull := false
    history := s.history ++ [.take s.slotAddr]
    cstate := .deint }

/-- C_TAKE (R222). -/
def execCTake (s : State) : Result :=
  s.consumerStep (s.cstate == .await && s.slotFull) (.next s.takeBuffer)

/-- FRM[c] <- v where stage 2 gave an output (R226). -/
def State.storeOutput (s : State) (c : BitVec 1) : Option Word → State
  | none => s
  | some v => s.setChan c { s.chan c with frm := v }

/-- The controller after the step for word `j` of channel `c`: the next newer word, the next channel, or
EmitFrame (R223, R226). -/
def State.advance (s : State) (c : BitVec 1) (j : BitVec 16) : State :=
  if j ≠ 0#16 then { s with wix := j - 1 }
  else if c.toNat + 1 < s.numChannels then { s with ch := c + 1, wix := s.decim - 1 }
  else { s with cstate := .emit }

/-- The work of C_STEP(c, j): one stage-1 and one stage-2 step (R226). -/
def State.filterStep (s : State) (c : BitVec 1) (j : BitVec 16) : Result :=
  match s.memRead (s.cur.toNat + c.toNat * s.decimation + j.toNat) with
  | .error h => h.outcome s
  | .ok w =>
    match s.s1Step c w with
    | .error h => h.outcome s
    | .ok (s1, y) =>
      match (s1.s2Push c y).2 with
      | .error h => h.outcome (s1.s2Push c y).1
      | .ok r => .next (((s1.s2Push c y).1.storeOutput c r).advance c j)

/-- C_STEP(c, j) (R226). -/
def execCStep (c : BitVec 1) (j : BitVec 16) (s : State) : Result :=
  s.consumerStep (s.cstate == .filt && c == s.ch && j == s.wix) (s.filterStep c j)

/-- The frame's samples: FRM[0] to FRM[C-1], channel 0 first (R110, R229). -/
def State.frameSamples (s : State) : List Word := [s.chan0.frm, s.chan1.frm].take s.numChannels

/-- EmitFrame: the frame event, and the region is released (R229). -/
def State.emitFrame (s : State) : State :=
  { s with
    history := s.history ++ [.frame s.frameSamples]
    curValid := false
    cstate := .await, ch := 0#1, wix := 0#16 }

/-- C_EMIT (R229). -/
def execCEmit (s : State) : Result :=
  s.consumerStep (s.cstate == .emit) (.next s.emitFrame)

end Sys2Proof.Machine
end

