-- ==== Sys2Proof/Machine/Deinterleaver.lean ====
section
/-! DEFINITION. The deinterleaver: deint1, deint2, inter2 (R161 to R165) and C_DEINT (R164). -/

namespace Sys2Proof.Machine

/-- Word `i` of a block; a block's indices run from 0, the newest word. -/
def wordAt (b : List Word) (i : Nat) : Word := b.getD i 0#32

/-- deint1 (R161). -/
def deint1 (b : List Word) : List Word := b

/-- deint2 on a block of 2D words (R163): channel 0's D words, then channel 1's, newest first; the newer port word's
bits are the upper half. -/
def deint2 (d : Nat) (b : List Word) : List Word :=
  (List.range d).map (fun j => (ce (wordAt b (2 * j)) ++ ce (wordAt b (2 * j + 1)) : BitVec (16 + 16)))
    ++ (List.range d).map (fun j => (co (wordAt b (2 * j)) ++ co (wordAt b (2 * j + 1)) : BitVec (16 + 16)))

/-- inter2, the inverse of deint2 on a block of 2D words; no operation of the hardware (R165). -/
def inter2 (d : Nat) (y : List Word) : List Word :=
  (List.range d).flatMap (fun j =>
    [spread ((wordAt y j).extractLsb' 16 16) ((wordAt y (d + j)).extractLsb' 16 16),
     spread ((wordAt y j).extractLsb' 0 16) ((wordAt y (d + j)).extractLsb' 0 16)])

/-- Enter FilteringChannel(0) with the oldest word (R164, R220). -/
def State.startFiltering (s : State) : State :=
  { s with cstate := .filt, ch := 0#1, wix := s.decim - 1 }

/-- The work of C_DEINT on the held region: in place for C = 2, none for C = 1 (R161, R164). -/
def State.deinterleave (s : State) : Except Halt State :=
  if s.numChannels = 2 then
    match s.memReads s.cur.toNat s.regionLen with
    | .error h => .error h
    | .ok b => s.memWrites s.cur.toNat (deint2 s.decimation b)
  else .ok s

/-- C_DEINT (R164). -/
def execCDeint (s : State) : Result :=
  s.consumerStep (s.cstate == .deint)
    (match s.deinterleave with
     | .error h => h.outcome s
     | .ok t => .next t.startFiltering)

end Sys2Proof.Machine
end

