-- ==== Sys2Proof/Machine/Flags.lean ====
section
/-! DEFINITION. The status and configuration words. The block has no arithmetic flags (R31): its only status bits are
STATUS's fields (R34, R109). -/

namespace Sys2Proof.Machine

/-- The code of STATE in STATUS bits 1:0 (R34). -/
def RunState.code : RunState → BitVec 2
  | .idle => 0
  | .running => 1
  | .fault => 2

/-- The code of ERR in STATUS bits 7:4 (R34, R284). -/
def SetupError.code : SetupError → BitVec 4
  | .none => 0
  | .badChannels => 1
  | .badDecim => 2
  | .badS2Taps => 3
  | .bufSizeMismatch => 4
  | .bufRange => 5

/-- The code of CSTATE in STATUS bits 9:8 (R34). -/
def CState.code : CState → BitVec 2
  | .await => 0
  | .deint => 1
  | .filt => 2
  | .emit => 3

/-- STATUS = STATE | ERR << 4 | CSTATE << 8 | SLOT_FULL << 10 | ACTIVE << 11 (R109). -/
def State.statusWord (s : State) : Word :=
  s.runState.code.setWidth 32 ||| (s.err.code.setWidth 32 <<< 4) ||| (s.cstate.code.setWidth 32 <<< 8)
    ||| ((BitVec.ofBool s.slotFull).setWidth 32 <<< 10) ||| (s.active.setWidth 32 <<< 11)

/-- CFG = DECIM << 16 | S2_SHIFT << 8 | CHANNELS (R109). -/
def State.cfgWord (s : State) : Word :=
  (s.decim.setWidth 32 <<< 16) ||| (s.s2Shift.setWidth 32 <<< 8) ||| s.channels.setWidth 32

/-- What REQ_WORDS reads: the sizing function of the current CFG (R39, R260). -/
def State.reqWord (s : State) : Word := BitVec.ofNat 32 s.reqSize

end Sys2Proof.Machine
end

