-- ==== Sys2Proof/Machine/Setup.lean ====
section
/-! DEFINITION. START: the setup checks and the initialisation (R256, R257, R281 to R284). -/

namespace Sys2Proof.Machine

/-- SETUP_CHECK: the first setup error in the order of R281, or none. -/
def State.setupCheck (s : State) : SetupError :=
  if ¬(s.numChannels = 1 ∨ s.numChannels = 2) then .badChannels
  else if s.decimation = 0 then .badDecim
  else if s.ntaps.toNat = 0 ∨ s.params.s2TapsMax < s.ntaps.toNat then .badS2Taps
  else if s.bufWords.toNat ≠ s.reqSize then .bufSizeMismatch
  else if s.params.bufmemWords < s.bufBase.toNat + s.reqSize then .bufRange
  else .none

/-- The effect of a setup error: STATE <- FAULT and ERR <- the code, nothing else (R283). -/
def State.setupFail (s : State) (e : SetupError) : State := { s with runState := .fault, err := e }

/-- The registers SETUP_INIT writes, with STATE <- RUNNING (R256, R257). -/
def State.setupRegs (s : State) : State :=
  { s with
    chan0 := Channel.zero s.params, chan1 := Channel.zero s.params
    active := 0#1, count := BitVec.ofNat 18 s.regionLen
    slotFull := false, slotAddr := 0#32
    cstate := .await, ch := 0#1, wix := 0#16, curValid := false, cur := 0#32
    runState := .running }

/-- SETUP_INIT and STATE <- RUNNING (R256, R257). The windows of channels 0 to C-1 follow one another from hist(0) up
(R73), so they are written as one run of HIST_INIT words. -/
def State.setupInit (s : State) : Except Halt State :=
  match s.memWrites (s.histBase 0) (List.replicate (s.numChannels * Config.histWords) s.params.histInit) with
  | .error h => .error h
  | .ok s' => .ok s'.setupRegs

/-- SETUP(), one atomic step (R256, R258). -/
def State.setup (s : State) : Result :=
  match s.setupCheck with
  | .none =>
    match s.setupInit with
    | .error h => h.outcome s
    | .ok t => .next t
  | e => .next (s.setupFail e)

end Sys2Proof.Machine
end

