-- ==== Sys2Proof/Machine/Mmio.lean ====
section
/-! DEFINITION. The host transactions MMIO_WR and MMIO_RD (R251 to R253). -/

namespace Sys2Proof.Machine

/-- A write the config lock lets through: the register takes its field bits, reserved bits are dropped (R251, R253). -/
def State.writeConfig (s : State) (r : MmioReg) (v : Word) : State :=
  match r with
  | .ctrl => s
  | .status => s
  | .cfg => { s with channels := v.extractLsb' 0 4, s2Shift := v.extractLsb' 8 6, decim := v.extractLsb' 16 16 }
  | .s2Ntaps => { s with ntaps := v.extractLsb' 0 8 }
  | .bufBase => { s with bufBase := v }
  | .bufWords => { s with bufWords := v }
  | .reqWords => s
  | .s1Coef t => { s with s1Coef := s.s1Coef.write t v }
  | .s2Coef k => { s with s2Coef := s.s2Coef.write k v }
  | .unmapped => s

/-- The word at a register, for the host; an unwritten coefficient raises UNINIT_READ (R252). -/
def State.readReg (s : State) (r : MmioReg) : Except Halt Word :=
  match r with
  | .ctrl => .ok 0#32
  | .status => .ok s.statusWord
  | .cfg => .ok s.cfgWord
  | .s2Ntaps => .ok (s.ntaps.setWidth 32)
  | .bufBase => .ok s.bufBase
  | .bufWords => .ok s.bufWords
  | .reqWords => .ok s.reqWord
  | .s1Coef t =>
    match s.s1Coef.read t with
    | some w => .ok w
    | none => .error (.raised .uninitRead)
  | .s2Coef k =>
    match s.s2Coef.read k with
    | some w => .ok w
    | none => .error (.raised .uninitRead)
  | .unmapped => .ok 0#32

/-- MMIO_RD gives `v` back to the host and changes nothing of the block (R252, log 9). -/
def State.giveHost (s : State) (v : Word) : State := { s with hostReads := s.hostReads ++ [v] }

/-- MMIO_WR(off, v) (R251): CTRL.START runs SETUP in IDLE; any other register is written only in IDLE. -/
def execMmioWr (off : BitVec 12) (v : Word) (s : State) : Result :=
  s.unlessFaulted
    (match mmioReg s.params.s2TapsMax off with
     | .ctrl => if v.getLsbD 0 = true ∧ s.runState = .idle then s.setup else .next s
     | r => if s.runState = .idle then .next (s.writeConfig r v) else .next s)

/-- MMIO_RD(off) (R252). -/
def execMmioRd (off : BitVec 12) (s : State) : Result :=
  s.unlessFaulted
    (match s.readReg (mmioReg s.params.s2TapsMax off) with
     | .error h => h.outcome s
     | .ok v => .next (s.giveHost v))

end Sys2Proof.Machine
end

