-- ==== Sys2Proof/Machine/Producer.lean ====
section
/-! DEFINITION. The producer: the port-ready interrupt handler (R142 to R144, R291 to R294). -/

namespace Sys2Proof.Machine

/-- The region the producer is about to write is the one the consumer holds (R286). -/
def State.tears (s : State) : Bool := s.curValid && (s.cur.toNat == s.regionBase s.active)

/-- The address of the next port word: index COUNT - 1 of the active region (R43, R143). -/
def State.fillAddr (s : State) : Nat := s.regionBase s.active + (s.count - 1).toNat

/-- COUNT <- COUNT - 1 (R143). -/
def State.countDown (s : State) : State := { s with count := s.count - 1 }

/-- PUBLISH(r) into an empty slot (R144). -/
def State.publish (s : State) (r : BitVec 1) : State :=
  { s with
    slotAddr := BitVec.ofNat 32 (s.regionBase r)
    slotFull := true
    history := s.history ++ [.publish (BitVec.ofNat 32 (s.regionBase r))] }

/-- Swap the regions and restart the countdown (R143). -/
def State.swapRegions (s : State) : State :=
  { s with active := 1#1 - s.active, count := BitVec.ofNat 18 s.regionLen }

/-- The producer handler for one port word `w`, from the point where it is found armed (R143). -/
def State.producerHandler (s : State) (w : Word) : Result :=
  if s.tears then .next (s.raise .tear)
  else
    match s.memWrite s.fillAddr w with
    | .error h => h.outcome s
    | .ok s1 =>
      if s1.countDown.count = 0#18 then
        if s1.slotFull then .next (s1.countDown.raise .slotOverrun)
        else .next (s1.countDown.publish s.active).swapRegions
      else .next s1.countDown

/-- PORT_WORD(w) (R143): a port word outside RUNNING is only recorded (R142). -/
def execPortWord (w : Word) (s : State) : Result :=
  s.unlessFaulted
    (let s1 := s.log (.port w)
     if s1.armed then s1.producerHandler w else .next s1)

end Sys2Proof.Machine
end

