-- ==== Sys2Proof/Machine/Reset.lean ====
section
/-! DEFINITION. RESET (R310, R311). -/

namespace Sys2Proof.Machine

/-- DL[c], PH[c] and FRM[c] after RESET: unspecified (R310, U8), so free values, the `c`-th lot drawn from `n` (log 4). -/
def freeChannel (p : Params) (n c : Nat) : Channel :=
  let at0 := n + c * (p.s2TapsMax + 1)
  { dl := (List.range p.s2TapsMax).map (fun k => Config.freeWord (at0 + k))
    ph := Config.freePhase at0
    frm := Config.freeWord (at0 + p.s2TapsMax) }

/-- What RESET leaves, from the state `z` with every register at its reset value: the event history is kept and gains
RESET (R310, C10); the pending operations and what the host has read are no registers of the block. -/
def State.afterReset (s z : State) : State :=
  { z with
    chan0 := freeChannel s.params s.draws 0
    chan1 := freeChannel s.params s.draws 1
    history := s.history ++ [.reset]
    stimulus := s.stimulus
    hostReads := s.hostReads
    draws := s.draws + 2 * (s.params.s2TapsMax + 1) }

/-- RESET, accepted in every state, a model-faulted one included (R310); the parameters stay (R5). -/
def execReset (s : State) : Result := .next (s.afterReset (State.resetWith s.params))

end Sys2Proof.Machine
end

