-- ==== Sys2Proof/Syntax.lean ====
section
/-! DEFINITION. The eight operations of the block's agents, one constructor per row of the opcode table (R106). -/

namespace Sys2Proof

/-- One operation: a host transaction, a port-ready event or a consumer step (R100 to R106). -/
inductive Instr where
  /-- MMIO_WR: the host writes `data` at byte offset `off` (R251). -/
  | mmioWr (off : BitVec 12) (data : Word)
  /-- MMIO_RD: the host reads the word at byte offset `off` (R252). -/
  | mmioRd (off : BitVec 12)
  /-- PORT_WORD: one port-ready event delivers `w` and runs the producer handler (R143). -/
  | portWord (w : Word)
  /-- C_TAKE: the consumer takes the published buffer (R222). -/
  | cTake
  /-- C_DEINT: the consumer deinterleaves the held region (R164). -/
  | cDeint
  /-- C_STEP: the consumer filters channel word `j` of channel `c` (R226). -/
  | cStep (c : BitVec 1) (j : BitVec 16)
  /-- C_EMIT: the consumer delivers the frame and releases the region (R229). -/
  | cEmit
  /-- RESET: hardware reset (R310). -/
  | reset
  deriving DecidableEq, Repr

/-- Length in words, fixed by the operation alone (R100). -/
def Instr.length : Instr → Nat
  | .mmioWr _ _ => 2
  | .mmioRd _ => 1
  | .portWord _ => 2
  | .cTake => 1
  | .cDeint => 1
  | .cStep _ _ => 1
  | .cEmit => 1
  | .reset => 1

end Sys2Proof
end

