-- ==== Sys2Proof/Machine/Dispatch.lean ====
section
/-! DEFINITION. One arm per operation. -/

namespace Sys2Proof.Machine

def exec (i : Instr) (s : State) : Host.Outcome State Fault Refusal :=
  match i with
  | .mmioWr off data => Sys2Proof.Machine.execMmioWr off data s
  | .mmioRd off => Sys2Proof.Machine.execMmioRd off s
  | .portWord w => Sys2Proof.Machine.execPortWord w s
  | .cTake => Sys2Proof.Machine.execCTake s
  | .cDeint => Sys2Proof.Machine.execCDeint s
  | .cStep c j => Sys2Proof.Machine.execCStep c j s
  | .cEmit => Sys2Proof.Machine.execCEmit s
  | .reset => Sys2Proof.Machine.execReset s

end Sys2Proof.Machine
end

