-- ==== Sys2Proof/WellFormed.lean ====
section
/-! DEFINITION. Which operations can be encoded: an MMIO offset is a multiple of 4 (R79, R103). -/

namespace Sys2Proof

/-- An MMIO byte offset that format M can carry: bits 1:0 are 00 (R102, R103). -/
def offsetAligned (off : BitVec 12) : Bool := off.extractLsb' 0 2 == 0#2

/-- The operation has an encoding. Every other operand takes every value of its field (R104, R105). -/
def Instr.wellFormed : Instr → Bool
  | .mmioWr off _ => offsetAligned off
  | .mmioRd off => offsetAligned off
  | .portWord _ => true
  | .cTake => true
  | .cDeint => true
  | .cStep _ _ => true
  | .cEmit => true
  | .reset => true

end Sys2Proof
end

