-- ==== Sys2Proof/Decode.lean ====
section
/-! DEFINITION. The decoder of operation words, total on every finite sequence of words, and the encoder
(30_encoding.md R100 to R108). -/

namespace Sys2Proof

/-! ## One operation word -/

/-- An operation that still waits for its payload word (R100: OP 0x1 and 0x3). -/
inductive PayloadOp where
  | mmioWr (off : BitVec 12)
  | portWord
  deriving DecidableEq, Repr

/-- The operation once its payload word is known. -/
def PayloadOp.withPayload : PayloadOp → Word → Instr
  | .mmioWr off, d => .mmioWr off d
  | .portWord, d => .portWord d

/-- What one operation word says: a whole operation, or one that needs a payload word. -/
inductive OpWord where
  | complete (i : Instr)
  | needsPayload (p : PayloadOp)
  deriving DecidableEq, Repr

/-- Field OP, bits 31:28 (R100). -/
def opField (w : Word) : BitVec 4 := w.extractLsb' 28 4

/-- Bits 11:0, the byte offset of a format M word (R103). -/
def offField (w : Word) : BitVec 12 := w.extractLsb' 0 12

/-- Field CHN, bit 16, of a format S word (R105). -/
def chnField (w : Word) : BitVec 1 := w.extractLsb' 16 1

/-- Field WIX, bits 15:0, of a format S word (R105). -/
def wixField (w : Word) : BitVec 16 := w.extractLsb' 0 16

/-- The Z bits of formats N and P are zero: bits 27:0 (R101, R104). -/
def zeroFieldN (w : Word) : Bool := w.extractLsb' 0 28 == 0#28

/-- The Z bits of format M are zero: bits 27:12 and 1:0 (R102). -/
def zeroFieldM (w : Word) : Bool := w.extractLsb' 12 16 == 0#16 && w.extractLsb' 0 2 == 0#2

/-- The Z bits of format S are zero: bits 27:17 (R105). -/
def zeroFieldS (w : Word) : Bool := w.extractLsb' 17 11 == 0#11

/-- The operation word `w`, or none where it is INVALID: a reserved OP, or a Z bit that is not zero (R106, R107). -/
def decodeOp (w : Word) : Option OpWord :=
  match (opField w).toNat with
  | 0x1 => if zeroFieldM w then some (.needsPayload (.mmioWr (offField w))) else none
  | 0x2 => if zeroFieldM w then some (.complete (.mmioRd (offField w))) else none
  | 0x3 => if zeroFieldN w then some (.needsPayload .portWord) else none
  | 0x8 => if zeroFieldN w then some (.complete .cTake) else none
  | 0x9 => if zeroFieldN w then some (.complete .cDeint) else none
  | 0xA => if zeroFieldS w then some (.complete (.cStep (chnField w) (wixField w))) else none
  | 0xB => if zeroFieldN w then some (.complete .cEmit) else none
  | 0xF => if zeroFieldN w then some (.complete .reset) else none
  | _ => none

/-! ## A sequence of words -/

/-- The decoder's verdict on a sequence: its operations, or INVALID with the index of the first bad word (R107, R108). -/
inductive Verdict where
  | operations (is : List Instr)
  | invalid (index : Nat)
  deriving DecidableEq, Repr

/-- The verdict on a sequence that begins with the words of `i`, from the verdict on the rest. -/
def Verdict.after (i : Instr) : Verdict → Verdict
  | .operations is => .operations (i :: is)
  | .invalid k => .invalid (i.length + k)

/-- The decoder, total on every finite sequence of words (R107, R108). A sequence that ends where a payload word is due
is INVALID at its operation word. -/
def decodeAll : List Word → Verdict
  | [] => .operations []
  | w :: ws =>
    match decodeOp w with
    | none => .invalid 0
    | some (.complete i) => (decodeAll ws).after i
    | some (.needsPayload p) =>
      match ws with
      | [] => .invalid 0
      | d :: rest => (decodeAll rest).after (p.withPayload d)

/-! ## The encoder -/

/-- The words of an operation, from the format tables (R101 to R105) and the OP map (R106). An offset whose bits 1:0
are not zero yields a word the decoder refuses. -/
def encode : Instr → List Word
  | .mmioWr off d => [0x1#4 ++ 0#16 ++ off, d]
  | .mmioRd off => [0x2#4 ++ 0#16 ++ off]
  | .portWord d => [0x3#4 ++ 0#28, d]
  | .cTake => [0x8#4 ++ 0#28]
  | .cDeint => [0x9#4 ++ 0#28]
  | .cStep c j => [0xA#4 ++ 0#11 ++ c ++ j]
  | .cEmit => [0xB#4 ++ 0#28]
  | .reset => [0xF#4 ++ 0#28]

/-- The words of a sequence of operations. -/
def encodeAll (is : List Instr) : List Word := is.flatMap encode

/-! ## The opcode table's numbering -/

/-- How many words the operation word `w` opens: OP alone fixes it (R100). -/
def wordsOf (w : Word) : Nat :=
  match (opField w).toNat with
  | 0x1 => 2
  | 0x3 => 2
  | _ => 1

/-- The words of the operation whose bits are `w`, bit 0 the least significant bit of the first word, every bit from
`nbits` up zero. -/
def tableWords (nbits w : Nat) : List Word :=
  let v := w % 2 ^ nbits
  let first : Word := BitVec.ofNat 32 v
  [first, BitVec.ofNat 32 (v >>> 32)].take (wordsOf first)

/-- What the decoder reads from the operation whose bits are `w`, numbered as the opcode table numbers them. -/
def decodeTableWord (nbits w : Nat) : Option Instr :=
  match decodeAll (tableWords nbits w) with
  | .operations [i] => some i
  | .operations _ => none
  | .invalid _ => none

end Sys2Proof
end

