-- ==== Sys2Proof/Machine/Fetch.lean ====
section
/-! DEFINITION. Where the next operation comes from: the pending operation sequence (R107, R108, R289, R325; log 1, log 12). -/

namespace Sys2Proof.Machine

/-- What stands at the front of the pending sequence. -/
inductive Fetched where
  /-- The sequence is used up (R325). -/
  | usedUp
  /-- The sequence holds an INVALID word, at this index (R107). -/
  | invalid (index : Nat)
  /-- The next operation. -/
  | operation (i : Instr)
  deriving DecidableEq, Repr

/-- Decode the whole pending sequence, since one INVALID word refuses all of it (R107, R289). -/
def State.fetch (s : State) : Fetched :=
  match decodeAll s.stimulus with
  | .operations [] => .usedUp
  | .operations (i :: _) => .operation i
  | .invalid k => .invalid k

/-- Drop the words of the operation `i` from the front of the pending sequence. -/
def State.consume (s : State) (i : Instr) : State := { s with stimulus := s.stimulus.drop i.length }

/-- Load an operation sequence into the machine, from outside it (log 1). -/
def State.load (s : State) (words : List Word) : State := { s with stimulus := words }

end Sys2Proof.Machine
end

