-- ==== Sys2Proof/Machine/Step.lean ====
section
/-! DEFINITION. One step of the machine: the next pending operation, as one atomic step (R292). -/

namespace Sys2Proof.Machine

/-- One step. A used-up sequence leaves the block waiting as it is (R325; log 1); an INVALID word anywhere in the
pending sequence refuses it (R107). -/
def step (s : State) : Host.Outcome State Fault Refusal :=
  match s.fetch with
  | .usedUp => .next s
  | .invalid k => .refused (.invalidSequence k)
  | .operation i => exec i (s.consume i)

/-- `s` with the one operation whose bits are `w`, numbered as the opcode table numbers them, as its whole pending
sequence. -/
def State.withFetchWord (s : State) (nbits w : Nat) : State := s.load (tableWords nbits w)

end Sys2Proof.Machine
end

