-- ==== Sys2Proof/Machine/Assembler.lean ====
section
/-! DEFINITION. The assembly language of operation sequences: offsets and their symbols, lines, pseudo-operations and their
expansions (R111, R112). It is no part of the hardware; a line is its parsed form, not its text. -/

namespace Sys2Proof.Machine

/-- An offset as a line writes it: a byte offset or one of the symbols of R111. -/
inductive AsmOffset where
  | byte (n : Nat)
  | ctrl
  | status
  | cfg
  | s2Ntaps
  | bufBase
  | bufWords
  | reqWords
  | s1Coef (t : Nat)
  | s2Coef (k : Nat)
  deriving DecidableEq, Repr

/-- The byte offset an offset stands for (R111). -/
def AsmOffset.value : AsmOffset → Nat
  | .byte n => n
  | .ctrl => 0x000
  | .status => 0x004
  | .cfg => 0x008
  | .s2Ntaps => 0x00C
  | .bufBase => 0x010
  | .bufWords => 0x014
  | .reqWords => 0x018
  | .s1Coef t => 0x400 + 4 * t
  | .s2Coef k => 0x800 + 4 * k

/-- The 12-bit offset, or none where the assembler rejects it: not a multiple of 4, or 0x1000 or more (R111). -/
def AsmOffset.encodable (o : AsmOffset) : Option (BitVec 12) :=
  if o.value % 4 = 0 ∧ o.value < 0x1000 then some (BitVec.ofNat 12 o.value) else none

/-- A line of assembly: an operation of R111 or a pseudo-operation of R112. -/
inductive AsmLine where
  | wr (off : AsmOffset) (value : Word)
  | rd (off : AsmOffset)
  | port (value : Word)
  | take
  | deint
  | step (c j : Nat)
  | emit
  | reset
  | start
  | cfg (c : BitVec 4) (d : BitVec 16) (sh : BitVec 6)
  | ntaps (n : Word)
  | buf (base words : Word)
  | s1coef (t : Nat) (v : Word)
  | s2coef (k : Nat) (v : Word)
  | s1fill (lo hi : Nat) (v : Word)
  | ports (ws : List Word)
  | consume (c d : Nat)
  deriving DecidableEq, Repr

/-- `wr`, where its offset can be encoded. -/
def asmWrite (off : AsmOffset) (v : Word) : Option Instr := off.encodable.map (fun o => .mmioWr o v)

/-- `step c, j`, rejected where c > 1 or j > 65535 (R111). -/
def asmStep (c j : Nat) : Option Instr :=
  if c ≤ 1 ∧ j ≤ 65535 then some (.cStep (BitVec.ofNat 1 c) (BitVec.ofNat 16 j)) else none

/-- `step c, D-1` down to `step c, 0` (R112). -/
def asmSteps (c : Nat) : Nat → List (Option Instr)
  | 0 => []
  | d + 1 => asmStep c d :: asmSteps c d

/-- The `step` lines of `consume`: the channels from `c` up, `n` of them (R112). -/
def asmChannels (d c : Nat) : Nat → List (Option Instr)
  | 0 => []
  | n + 1 => asmSteps c d ++ asmChannels d (c + 1) n

/-- The operations of a line, none where the assembler rejects one of them. A `consume` takes the C and D that CFG holds
when the sequence is assembled (R112). -/
def AsmLine.expand : AsmLine → List (Option Instr)
  | .wr off v => [asmWrite off v]
  | .rd off => [off.encodable.map .mmioRd]
  | .port v => [some (.portWord v)]
  | .take => [some .cTake]
  | .deint => [some .cDeint]
  | .step c j => [asmStep c j]
  | .emit => [some .cEmit]
  | .reset => [some .reset]
  | .start => [asmWrite .ctrl 1]
  | .cfg c d sh => [asmWrite .cfg ((d.setWidth 32 <<< 16) ||| (sh.setWidth 32 <<< 8) ||| c.setWidth 32)]
  | .ntaps n => [asmWrite .s2Ntaps n]
  | .buf base words => [asmWrite .bufBase base, asmWrite .bufWords words]
  | .s1coef t v => [asmWrite (.s1Coef t) v]
  | .s2coef k v => [asmWrite (.s2Coef k) v]
  | .s1fill lo hi v => (List.range (hi + 1 - lo)).map (fun n => asmWrite (.s1Coef (lo + n)) v)
  | .ports ws => ws.map (fun w => some (.portWord w))
  | .consume c d => [some .cTake, some .cDeint] ++ asmChannels d 0 c ++ [some .cEmit]

/-- Every element, or none where one is missing. -/
def allSome : List (Option Instr) → Option (List Instr)
  | [] => some []
  | none :: _ => none
  | some i :: rest => (allSome rest).map (i :: ·)

/-- The words of an assembly program, or none where the assembler rejects a line. -/
def assemble (lines : List AsmLine) : Option (List Word) :=
  (allSome (lines.flatMap AsmLine.expand)).map encodeAll

end Sys2Proof.Machine
end

