-- ==== Sys2Proof/Safety.lean ====
section
/-! DEFINITION. What counts as a safe run, in the terms the statements use: runs of operations, the invariants of R50 and
what they rest on, the real-time contract RtOk of R320, and the two-stage filter as one function of its inputs. -/

namespace Sys2Proof.Machine

/-! ## Runs -/

/-- A run of operations, in order, each one atomic (R292, R325). It stops at the first operation with no next state. -/
def runOps : List Instr → State → Result
  | [], s => .next s
  | i :: is, s =>
    match exec i s with
    | .next t => runOps is t
    | .fault f => .fault f
    | .refused r => .refused r

/-- `n` steps of the machine, stopping at the first fault or refusal. -/
def runSteps : Nat → State → Result
  | 0, s => .next s
  | n + 1, s =>
    match step s with
    | .next t => runSteps n t
    | .fault f => .fault f
    | .refused r => .refused r

/-- A state in which a run begins: right after a RESET, the one of power-on or the operation, with a program loaded
(R310, R325; log 1). -/
def RunStart (s : State) : Prop :=
  (∃ p words, p.wf ∧ s = (State.resetWith p).load words) ∨
    ∃ before after words, exec .reset before = .next after ∧ s = after.load words

/-- No state from `s` through `n` steps on records a model fault. A RESET clears FAULTED, so the last state alone does not
say it: the run spans the RESET (R325, C10). -/
def recordsNoFault : Nat → State → Bool
  | 0, s => s.faulted == none
  | n + 1, s =>
    s.faulted == none &&
      (match step s with
       | .next t => recordsNoFault n t
       | .fault _ => true
       | .refused _ => true)

/-- The run from `s` ends in `t` after `n` steps (R325): its program is used up, or its next step is not enabled (R221,
R290), or a model fault lets no agent step (R49, R285). -/
def RunEnds (s : State) (n : Nat) (t : State) : Prop :=
  runSteps n s = .next t ∧
    (t.stimulus = [] ∨ step t = .fault .notEnabled ∨ ∃ k, step t = .fault (.modelFaulted k))

/-- The run of the program `is` from `s` to `t` is final (R325): from a RESET it used up its program, recorded no model
fault in any of its states, and was refused nothing, every word of the program having decoded. Its observation is the
event history of `t` and `t` itself. -/
structure FinalRun (s : State) (is : List Instr) (t : State) : Prop where
  start : RunStart s
  decoded : decodeAll s.stimulus = .operations is
  ran : runSteps is.length s = .next t
  usedUp : t.stimulus = []
  noFault : recordsNoFault is.length s = true

/-- `s0` is the state a successful START leaves (R256): the host wrote 1 to CTRL.START in IDLE and the block now runs. -/
def StartsIn (s0 : State) : Prop :=
  ∃ s v, s.runState = .idle ∧ exec (.mmioWr 0x000#12 v) s = .next s0 ∧ s0.runState = .running

/-- A run from `s0` to `t` without a RESET. -/
def RunsTo (s0 : State) (is : List Instr) (t : State) : Prop :=
  Instr.reset ∉ is ∧ runOps is s0 = .next t

/-! ## Written marks -/

/-- The word at `a` carries a written mark (R74). -/
def Memory.marked (m : Memory) (a : Nat) : Bool := (m.read a).isSome

/-- Every coefficient the filters read is written: all 256 S1_COEF entries and the first NT S2_COEF entries (R312). -/
def State.coefsWritten (s : State) : Prop :=
  (∀ t < Config.s1Taps, s.s1Coef.marked t = true) ∧ (∀ k < s.ntaps.toNat, s.s2Coef.marked k = true)

/-! ## The invariant -/

/-- What holds in every state, whatever the run state: legal parameters, canonical memories inside their bounds (R70),
delay lines of the length of S2C (R46), and ERR non-zero only in FAULT (R34). -/
structure State.Shaped (s : State) : Prop where
  params : s.params.wf
  bufmem : s.bufmem.wf ∧ ∀ x ∈ s.bufmem, x.1 < s.params.bufmemWords
  s1Coef : s.s1Coef.wf ∧ ∀ x ∈ s.s1Coef, x.1 < Config.s1Taps
  s2Coef : s.s2Coef.wf ∧ ∀ x ∈ s.s2Coef, x.1 < s.params.s2TapsMax
  delays : s.chan0.dl.length = s.params.s2TapsMax ∧ s.chan1.dl.length = s.params.s2TapsMax
  err : s.err ≠ .none → s.runState = .fault

/-- The invariants (a) to (e) of R50. -/
structure State.R50 (s : State) : Prop where
  a : 1 ≤ s.count.toNat ∧ s.count.toNat ≤ s.regionLen
  b : s.slotFull = true → s.slotAddr.toNat = s.regionBase (1#1 - s.active)
  c : ∀ c : BitVec 1, (s.chan c).ph.toNat =
    if s.cstate = .filt ∧ c = s.ch then s.decimation - 1 - s.wix.toNat else 0
  d : s.curValid = true ↔ s.cstate ≠ .await
  e : s.cstate = .filt → s.ch.toNat < s.numChannels ∧ s.wix.toNat < s.decimation

/-- Which region the consumer holds, seen from the producer: the region it does not fill, or, once that one is published
too, the region it would fill next, with none of it written yet (R87). -/
structure State.Handoff (s : State) : Prop where
  held : s.curValid = true → s.cur.toNat = s.regionBase (if s.slotFull then s.active else 1#1 - s.active)
  full : s.curValid = true → s.slotFull = true → s.count.toNat = s.regionLen

/-- What is written while the block runs: the windows of the configured channels (R257), what this fill has written so
far (R146), the published region and the held region (R148). -/
structure State.Written (s : State) : Prop where
  windows : ∀ i < s.numChannels * Config.histWords, s.bufmem.marked (s.histBase 0 + i) = true
  fill : ∀ i, s.count.toNat ≤ i → i < s.regionLen → s.bufmem.marked (s.regionBase s.active + i) = true
  published : s.slotFull = true → ∀ i < s.regionLen, s.bufmem.marked (s.regionBase (1#1 - s.active) + i) = true
  held : s.curValid = true → ∀ i < s.regionLen, s.bufmem.marked (s.cur.toNat + i) = true

/-- The invariant of the block. While it runs with no model fault, its configuration has passed SETUP_CHECK (it is locked
since, R253) and R50 holds. -/
structure State.Inv (s : State) : Prop where
  shaped : s.Shaped
  running : s.runState = .running → s.faulted = none →
    s.setupCheck = .none ∧ s.R50 ∧ s.Handoff ∧ s.Written

/-! ## The real-time contract -/

/-- The operation is a port event. -/
def isPortOp : Instr → Bool
  | .portWord _ => true
  | .mmioWr _ _ => false
  | .mmioRd _ => false
  | .cTake => false
  | .cDeint => false
  | .cStep _ _ => false
  | .cEmit => false
  | .reset => false

/-- RtOk for the steps `is` taken after START, with regions of `l` words (R320): when the port event P_((n+1)l) comes,
buffer n has been taken; when P_((n+1)l + 1) comes, buffer n has been emitted. -/
def RtOk (l : Nat) (is : List Instr) : Prop :=
  ∀ n ≥ 1, ∀ before w after, is = before ++ .portWord w :: after →
    (before.countP isPortOp + 1 = (n + 1) * l → n ≤ before.count .cTake) ∧
    (before.countP isPortOp + 1 = (n + 1) * l + 1 → n ≤ before.count .cEmit)

/-! ## Events -/

/-- The addresses of the PUBLISH events, in order. -/
def publishAddrs (es : List Event) : List Word :=
  es.filterMap (fun e => match e with | .publish a => some a | _ => none)

/-- The addresses of the TAKE events, in order. -/
def takeAddrs (es : List Event) : List Word :=
  es.filterMap (fun e => match e with | .take a => some a | _ => none)

/-- The frames, in order. -/
def frames (es : List Event) : List (List Word) :=
  es.filterMap (fun e => match e with | .frame f => some f | _ => none)

/-! ## The two stages as one function -/

/-- The window and the delay line of a channel after feeding it channel words, oldest first (R185, R203, R223). -/
def feed (m : BitMap) (s1coefs : List Word) (s2TapsMax : Nat) :
    List Word × List Word → List Word → List Word × List Word
  | st, [] => st
  | (window, dl), w :: ws =>
    feed m s1coefs s2TapsMax
      (shiftIn window w, (s1Filter m s1coefs (shiftIn window w) :: dl).take s2TapsMax) ws

/-- The operations of `consume` for C channels and decimation D (R112): C_TAKE, C_DEINT, the C_STEPs, C_EMIT. -/
def consumeOps (c d : Nat) : List Instr :=
  [.cTake, .cDeint]
    ++ (List.range c).flatMap (fun i => (List.range d).reverse.map (fun j => .cStep (BitVec.ofNat 1 i) (BitVec.ofNat 16 j)))
    ++ [.cEmit]

end Sys2Proof.Machine
end

