-- ==== Sys2Proof/Certificates/Slice0/Obligations.lean ====
section
/-! DEFINITION. The statements for the provers. Each formalises rules of spec/ that its docstring names; memory is read a
word at a time, the smallest unit BUFMEM has (R72, R78; log 6). -/

open Sys2Proof Sys2Proof.Machine

/-! ## Encoding -/

/-- R101 to R106: the words of well-formed operations decode to those operations. -/
def Obligations.DecodeOfEncodeIsTheSequence : Prop :=
  ∀ is : List Instr, (∀ i ∈ is, i.wellFormed = true) → decodeAll (encodeAll is) = .operations is

/-- R108: on any finite sequence of words the decoder returns its operations, all of them well-formed (R79, R103: no
misaligned offset), whose encoding gives back the words, or INVALID at the first bad index: what stands before it decodes,
and it is bad itself. -/
def Obligations.EncodeOfDecodeGivesBackTheWords : Prop :=
  (∀ ws is, decodeAll ws = .operations is → encodeAll is = ws ∧ ∀ i ∈ is, i.wellFormed = true) ∧
  (∀ ws k, decodeAll ws = .invalid k →
    k < ws.length ∧ (∃ is, decodeAll (ws.take k) = .operations is) ∧ decodeAll (ws.drop k) = .invalid 0)

/-- R100 to R106 and opcode_table.json: a word is the operation of a row exactly when it has the row's match under the row's
mask, and it is INVALID exactly when it matches no row. -/
def Obligations.DecoderFollowsTheOpcodeTable : Prop :=
  ∀ w : Word,
    (w &&& 0xFFFFF003#32 = 0x10000000#32 ↔ decodeOp w = some (.needsPayload (.mmioWr (w.extractLsb' 0 12)))) ∧
    (w &&& 0xFFFFF003#32 = 0x20000000#32 ↔ decodeOp w = some (.complete (.mmioRd (w.extractLsb' 0 12)))) ∧
    (w &&& 0xFFFFFFFF#32 = 0x30000000#32 ↔ decodeOp w = some (.needsPayload .portWord)) ∧
    (w &&& 0xFFFFFFFF#32 = 0x80000000#32 ↔ decodeOp w = some (.complete .cTake)) ∧
    (w &&& 0xFFFFFFFF#32 = 0x90000000#32 ↔ decodeOp w = some (.complete .cDeint)) ∧
    (w &&& 0xFFFE0000#32 = 0xA0000000#32 ↔
      decodeOp w = some (.complete (.cStep (w.extractLsb' 16 1) (w.extractLsb' 0 16)))) ∧
    (w &&& 0xFFFFFFFF#32 = 0xB0000000#32 ↔ decodeOp w = some (.complete .cEmit)) ∧
    (w &&& 0xFFFFFFFF#32 = 0xF0000000#32 ↔ decodeOp w = some (.complete .reset)) ∧
    (decodeOp w = none ↔
      ∀ row ∈ [(0xFFFFF003#32, 0x10000000#32), (0xFFFFF003#32, 0x20000000#32), (0xFFFFFFFF#32, 0x30000000#32),
        (0xFFFFFFFF#32, 0x80000000#32), (0xFFFFFFFF#32, 0x90000000#32), (0xFFFE0000#32, 0xA0000000#32),
        (0xFFFFFFFF#32, 0xB0000000#32), (0xFFFFFFFF#32, 0xF0000000#32)], w &&& row.1 ≠ row.2)

/-- R107, R289: which operation words are INVALID, that a sequence which ends where a payload is due is INVALID, and that
a sequence with an INVALID word is refused as a whole, with the word's index. -/
def Obligations.InvalidWordsRefuseTheWholeSequence : Prop :=
  (∀ w : Word, decodeOp w = none ↔
    (w.extractLsb' 28 4 ∈ [0x0#4, 0x4#4, 0x5#4, 0x6#4, 0x7#4, 0xC#4, 0xD#4, 0xE#4] ∨
     (w.extractLsb' 28 4 ∈ [0x3#4, 0x8#4, 0x9#4, 0xB#4, 0xF#4] ∧ w.extractLsb' 0 28 ≠ 0#28) ∨
     (w.extractLsb' 28 4 ∈ [0x1#4, 0x2#4] ∧ (w.extractLsb' 12 16 ≠ 0#16 ∨ w.extractLsb' 0 2 ≠ 0#2)) ∨
     (w.extractLsb' 28 4 = 0xA#4 ∧ w.extractLsb' 17 11 ≠ 0#11))) ∧
  (∀ is w, (∀ i ∈ is, i.wellFormed = true) → w.extractLsb' 28 4 ∈ [0x1#4, 0x3#4] →
    decodeAll (encodeAll is ++ [w]) = .invalid (encodeAll is).length) ∧
  (∀ s : State, ∀ k, decodeAll s.stimulus = .invalid k → step s = .refused (.invalidSequence k))

/-- R113: the spec's encoding examples (a sanity statement). -/
def Obligations.EncodingExamplesDecode : Prop :=
  decodeAll [0x10000008#32, 0x00060001#32] = .operations [.mmioWr 0x008#12 0x00060001#32] ∧
  decodeAll [0x20000004#32] = .operations [.mmioRd 0x004#12] ∧
  decodeAll [0x1000047C#32, 0x00000001#32] = .operations [.mmioWr 0x47C#12 1#32] ∧
  decodeAll [0x10000814#32, 0xFFFFFFFF#32] = .operations [.mmioWr 0x814#12 0xFFFFFFFF#32] ∧
  decodeAll [0x30000000#32, 0x00000001#32] = .operations [.portWord 1#32] ∧
  decodeAll [0xA0010005#32] = .operations [.cStep 1#1 5#16] ∧
  decodeAll [0x80000000#32, 0x90000000#32, 0xB0000000#32, 0xF0000000#32] =
    .operations [.cTake, .cDeint, .cEmit, .reset] ∧
  decodeAll [0x20000006#32] = .invalid 0 ∧ decodeAll [0x80000001#32] = .invalid 0 ∧
  decodeAll [0x50000000#32] = .invalid 0

/-- R111: the encoding of every line, and what the assembler rejects. -/
def Obligations.AssemblerEncodesOrRejectsEachLine : Prop :=
  (∀ n v, n % 4 = 0 → n < 0x1000 →
    assemble [.wr (.byte n) v] = some [0x10000000#32 ||| BitVec.ofNat 32 n, v] ∧
    assemble [.rd (.byte n)] = some [0x20000000#32 ||| BitVec.ofNat 32 n]) ∧
  (∀ n v, n % 4 ≠ 0 ∨ 0x1000 ≤ n → assemble [.wr (.byte n) v] = none ∧ assemble [.rd (.byte n)] = none) ∧
  (∀ c j, c ≤ 1 → j ≤ 65535 →
    assemble [.step c j] = some [0xA0000000#32 ||| (BitVec.ofNat 32 c <<< 16) ||| BitVec.ofNat 32 j]) ∧
  (∀ c j, 1 < c ∨ 65535 < j → assemble [.step c j] = none) ∧
  (∀ v, assemble [.port v] = some [0x30000000#32, v]) ∧
  assemble [.take, .deint, .emit, .reset] = some [0x80000000#32, 0x90000000#32, 0xB0000000#32, 0xF0000000#32] ∧
  [AsmOffset.ctrl, .status, .cfg, .s2Ntaps, .bufBase, .bufWords, .reqWords].map AsmOffset.value =
    [0x000, 0x004, 0x008, 0x00C, 0x010, 0x014, 0x018] ∧
  (∀ t, (AsmOffset.s1Coef t).value = 0x400 + 4 * t ∧ (AsmOffset.s2Coef t).value = 0x800 + 4 * t)

/-- R112: `consume` for C channels and decimation D is C_TAKE, C_DEINT, the C_STEPs channel by channel from the oldest word,
and C_EMIT. -/
def Obligations.ConsumeExpandsToTheConsumerSteps : Prop :=
  ∀ c d, c ≤ 2 → d ≤ 65536 → allSome ((AsmLine.consume c d).expand) = some (consumeOps c d)

/-! ## Steps and programs -/

/-- R292, R325: when the pending sequence decodes, a step runs its first operation and leaves the rest pending. With
nothing pending the block waits as it is (the model's choice, log 1). -/
def Obligations.StepRunsTheDecodedOperation : Prop :=
  (∀ (s : State) i is, decodeAll s.stimulus = .operations (i :: is) →
    step s = exec i { s with stimulus := s.stimulus.drop i.length } ∧
    decodeAll (s.stimulus.drop i.length) = .operations is) ∧
  ∀ s : State, s.stimulus = [] → step s = .next s

/-- R108, R292, R325: a loaded program runs operation by operation, in order, each one atomic: as many steps as it has
operations answer what running those operations answers. -/
def Obligations.LoadedProgramRunsItsOperationsInOrder : Prop :=
  ∀ (s : State) is, decodeAll s.stimulus = .operations is →
    runSteps is.length s = runOps is (s.load [])

/-! ## Registers and the host -/

/-- R251: what MMIO_WR does at each offset, in a state with no model fault. -/
def Obligations.HostWriteEffect : Prop :=
  ∀ (s : State) (v : Word), s.params.wf → s.faulted = none →
    (v.getLsbD 0 = true → s.runState = .idle → exec (.mmioWr 0x000#12 v) s = s.setup) ∧
    (¬(v.getLsbD 0 = true ∧ s.runState = .idle) → exec (.mmioWr 0x000#12 v) s = .next s) ∧
    exec (.mmioWr 0x004#12 v) s = .next s ∧
    exec (.mmioWr 0x018#12 v) s = .next s ∧
    (s.runState ≠ .idle → ∀ off, exec (.mmioWr off v) s = .next s) ∧
    (s.runState = .idle →
      exec (.mmioWr 0x008#12 v) s = .next
        { s with channels := v.extractLsb' 0 4, s2Shift := v.extractLsb' 8 6, decim := v.extractLsb' 16 16 } ∧
      exec (.mmioWr 0x00C#12 v) s = .next { s with ntaps := v.extractLsb' 0 8 } ∧
      exec (.mmioWr 0x010#12 v) s = .next { s with bufBase := v } ∧
      exec (.mmioWr 0x014#12 v) s = .next { s with bufWords := v } ∧
      (∀ t < 256, exec (.mmioWr (BitVec.ofNat 12 (0x400 + 4 * t)) v) s =
        .next { s with s1Coef := s.s1Coef.write t v }) ∧
      (∀ k < s.params.s2TapsMax, exec (.mmioWr (BitVec.ofNat 12 (0x800 + 4 * k)) v) s =
        .next { s with s2Coef := s.s2Coef.write k v }) ∧
      (∀ off : BitVec 12, off.toNat % 4 = 0 →
        (0x01C ≤ off.toNat ∧ off.toNat < 0x400) ∨ 0x800 + 4 * s.params.s2TapsMax ≤ off.toNat →
        exec (.mmioWr off v) s = .next s))

/-- R253, R88: a host write outside IDLE is ignored, and no operation but RESET changes a configuration register or a
coefficient outside IDLE. -/
def Obligations.ConfigurationIsLockedOutsideIdle : Prop :=
  ∀ s : State, s.runState ≠ .idle →
    (∀ off v, s.faulted = none → exec (.mmioWr off v) s = .next s) ∧
    (∀ i t, i ≠ .reset → exec i s = .next t →
      t.channels = s.channels ∧ t.s2Shift = s.s2Shift ∧ t.decim = s.decim ∧ t.ntaps = s.ntaps ∧
      t.bufBase = s.bufBase ∧ t.bufWords = s.bufWords ∧ t.s1Coef = s.s1Coef ∧ t.s2Coef = s.s2Coef)

/-- R252: what MMIO_RD gives the host at each offset (recorded in `hostReads`, the model's own field, log 9), in a state
with no model fault; it changes nothing of the block, and an unwritten coefficient raises UNINIT_READ. -/
def Obligations.HostReadEffect : Prop :=
  ∀ s : State, s.params.wf → s.faulted = none →
    let returns (off : BitVec 12) (v : Word) : Prop :=
      exec (.mmioRd off) s = .next { s with hostReads := s.hostReads ++ [v] }
    returns 0x000#12 0#32 ∧
    returns 0x004#12 (BitVec.ofNat 32 (s.runState.code.toNat + 16 * s.err.code.toNat + 256 * s.cstate.code.toNat
      + 1024 * s.slotFull.toNat + 2048 * s.active.toNat)) ∧
    returns 0x008#12 (BitVec.ofNat 32 (65536 * s.decim.toNat + 256 * s.s2Shift.toNat + s.channels.toNat)) ∧
    returns 0x00C#12 (BitVec.ofNat 32 s.ntaps.toNat) ∧
    returns 0x010#12 s.bufBase ∧
    returns 0x014#12 s.bufWords ∧
    returns 0x018#12 (BitVec.ofNat 32 (2 * s.channels.toNat * s.decim.toNat + s.channels.toNat * 8)) ∧
    (∀ t < 256,
      (∀ w, s.s1Coef.read t = some w → returns (BitVec.ofNat 12 (0x400 + 4 * t)) w) ∧
      (s.s1Coef.read t = none → exec (.mmioRd (BitVec.ofNat 12 (0x400 + 4 * t))) s =
        .next { s with faulted := some .uninitRead })) ∧
    (∀ k < s.params.s2TapsMax,
      (∀ w, s.s2Coef.read k = some w → returns (BitVec.ofNat 12 (0x800 + 4 * k)) w) ∧
      (s.s2Coef.read k = none → exec (.mmioRd (BitVec.ofNat 12 (0x800 + 4 * k))) s =
        .next { s with faulted := some .uninitRead })) ∧
    (∀ off : BitVec 12, off.toNat % 4 = 0 →
      (0x01C ≤ off.toNat ∧ off.toNat < 0x400) ∨ 0x800 + 4 * s.params.s2TapsMax ≤ off.toNat → returns off 0#32)

/-- R35 to R41, R77: in IDLE a register reads back what was written to it, its reserved bits as 0; a coefficient entry
reads back its word, and the other entries are as before. -/
def Obligations.WrittenRegistersReadBack : Prop :=
  ∀ (s : State) (v : Word), s.params.wf → s.faulted = none → s.runState = .idle →
    let readsBack (off : BitVec 12) (x : Word) : Prop :=
      ∃ t, exec (.mmioWr off v) s = .next t ∧
        exec (.mmioRd off) t = .next { t with hostReads := t.hostReads ++ [x] }
    readsBack 0x008#12 (v &&& 0xFFFF3F0F#32) ∧ readsBack 0x00C#12 (v &&& 0x000000FF#32) ∧
    readsBack 0x010#12 v ∧ readsBack 0x014#12 v ∧
    (∀ t < 256, readsBack (BitVec.ofNat 12 (0x400 + 4 * t)) v ∧
      ∀ u, u ≠ t → (s.s1Coef.write t v).read u = s.s1Coef.read u) ∧
    (∀ k < s.params.s2TapsMax, readsBack (BitVec.ofNat 12 (0x800 + 4 * k)) v ∧
      ∀ u, u ≠ k → (s.s2Coef.write k v).read u = s.s2Coef.read u)

/-- R109: the packing of STATUS and CFG, and the three examples of the rule. -/
def Obligations.StatusAndCfgWordsArePacked : Prop :=
  (∀ s : State,
    s.statusWord.toNat = s.runState.code.toNat + s.err.code.toNat * 2 ^ 4 + s.cstate.code.toNat * 2 ^ 8
      + s.slotFull.toNat * 2 ^ 10 + s.active.toNat * 2 ^ 11 ∧
    s.cfgWord.toNat = s.decim.toNat * 2 ^ 16 + s.s2Shift.toNat * 2 ^ 8 + s.channels.toNat) ∧
  (∀ s : State, s.channels = 1#4 → s.decim = 6#16 → s.s2Shift = 0#6 → s.cfgWord = 0x00060001#32) ∧
  (∀ s : State, s.runState = .running → s.err = .none → s.cstate = .await → s.slotFull = false → s.active = 1#1 →
    s.statusWord = 0x00000801#32) ∧
  (∀ s : State, s.runState = .fault → s.err = .badChannels → s.cstate = .await → s.slotFull = false →
    s.active = 0#1 → s.statusWord = 0x00000012#32)

/-- R39, R260: REQ_WORDS always reads 2 * CHANNELS * DECIM + CHANNELS * H, exact, whatever CFG holds (the word read is
recorded in `hostReads`, the model's own field, log 9); writes to it are ignored; after reset it reads 0. -/
def Obligations.ReqWordsReadsTheSizingFunction : Prop :=
  (∀ s : State, s.faulted = none →
    (∃ v : Word, v.toNat = 2 * s.channels.toNat * s.decim.toNat + s.channels.toNat * 8 ∧
      exec (.mmioRd 0x018#12) s = .next { s with hostReads := s.hostReads ++ [v] }) ∧
    ∀ v, exec (.mmioWr 0x018#12 v) s = .next s) ∧
  State.reset.reqWord = 0#32

/-! ## START -/

/-- R281, R282, R284: the setup error a START finds is the first that applies, in the order channels, decimation, taps,
size, range; and its code. -/
def Obligations.SetupErrorsHaveTheirPriority : Prop :=
  (∀ s : State,
    let C := s.channels.toNat
    let D := s.decim.toNat
    let NT := s.ntaps.toNat
    let REQ := 2 * C * D + C * 8
    (C ≠ 1 ∧ C ≠ 2 → s.setupCheck = .badChannels) ∧
    ((C = 1 ∨ C = 2) → D = 0 → s.setupCheck = .badDecim) ∧
    ((C = 1 ∨ C = 2) → D ≠ 0 → NT = 0 ∨ s.params.s2TapsMax < NT → s.setupCheck = .badS2Taps) ∧
    ((C = 1 ∨ C = 2) → D ≠ 0 → NT ≠ 0 → NT ≤ s.params.s2TapsMax → s.bufWords.toNat ≠ REQ →
      s.setupCheck = .bufSizeMismatch) ∧
    ((C = 1 ∨ C = 2) → D ≠ 0 → NT ≠ 0 → NT ≤ s.params.s2TapsMax → s.bufWords.toNat = REQ →
      s.params.bufmemWords < s.bufBase.toNat + REQ → s.setupCheck = .bufRange) ∧
    ((C = 1 ∨ C = 2) → D ≠ 0 → NT ≠ 0 → NT ≤ s.params.s2TapsMax → s.bufWords.toNat = REQ →
      s.bufBase.toNat + REQ ≤ s.params.bufmemWords → s.setupCheck = .none)) ∧
  [SetupError.none, .badChannels, .badDecim, .badS2Taps, .bufSizeMismatch, .bufRange].map SetupError.code =
    [0, 1, 2, 3, 4, 5]

/-- R283: a failed START writes STATE and ERR and nothing else; from then on port words are dropped, no consumer step is
enabled, every host write, a second START among them, is ignored, and only RESET leaves FAULT. -/
def Obligations.FailedStartWritesOnlyTheError : Prop :=
  ∀ (s : State) (v : Word), s.faulted = none → s.runState = .idle → v.getLsbD 0 = true → s.setupCheck ≠ .none →
    ∃ t, exec (.mmioWr 0x000#12 v) s = .next t ∧ t = { s with runState := .fault, err := s.setupCheck } ∧
      (∀ w, exec (.portWord w) t = .next { t with history := t.history ++ [.port w] }) ∧
      (∀ i ∈ [Instr.cTake, .cDeint, .cEmit], exec i t = .fault .notEnabled) ∧
      (∀ c j, exec (.cStep c j) t = .fault .notEnabled) ∧
      (∀ off u, exec (.mmioWr off u) t = .next t) ∧
      (∀ i u, i ≠ .reset → exec i t = .next u → u.runState = .fault)

/-- R256, R257: a START whose checks pass leaves the block RUNNING with every window word of the configured channels at
HIST_INIT, the stage-2 state and the frame zero whatever they held, the producer at the top of region A, the slot empty
and the controller in AWAIT; no other word of BUFMEM, no configuration register and no coefficient changes. -/
def Obligations.SuccessfulStartInitialisesAndRuns : Prop :=
  ∀ (s : State) (v : Word), s.faulted = none → s.runState = .idle → v.getLsbD 0 = true → s.setupCheck = .none →
    let C := s.channels.toNat
    let D := s.decim.toNat
    let L := C * D
    let hist (c : Nat) := s.bufBase.toNat + 2 * L + c * 8
    ∃ t, exec (.mmioWr 0x000#12 v) s = .next t ∧
      (∀ c < C, ∀ k < 8, t.bufmem.read (hist c + k) = some s.params.histInit) ∧
      (∀ a, a < hist 0 ∨ hist C ≤ a → t.bufmem.read a = s.bufmem.read a) ∧
      t = { s with
        bufmem := t.bufmem
        runState := .running
        chan0 := { dl := List.replicate s.params.s2TapsMax 0#32, ph := 0#16, frm := 0#32 }
        chan1 := { dl := List.replicate s.params.s2TapsMax 0#32, ph := 0#16, frm := 0#32 }
        active := 0#1, count := BitVec.ofNat 18 L, slotFull := false, slotAddr := 0#32
        cstate := .await, ch := 0#1, wix := 0#16, curValid := false, cur := 0#32 } ∧
      t.count.toNat = L

/-- R312: in IDLE, writing a legal CFG, S2_NTAPS, BUF_BASE and the BUF_WORDS that REQ_WORDS reads, then START, leaves the
block RUNNING with that configuration. -/
def Obligations.BootSequenceStartsTheBlock : Prop :=
  ∀ (s : State) (cfg nt base words : Word), s.Inv → s.faulted = none → s.runState = .idle →
    let C := (cfg.extractLsb' 0 4).toNat
    let D := (cfg.extractLsb' 16 16).toNat
    (C = 1 ∨ C = 2) → D ≠ 0 → 1 ≤ (nt.extractLsb' 0 8).toNat → (nt.extractLsb' 0 8).toNat ≤ s.params.s2TapsMax →
    words.toNat = 2 * C * D + C * 8 → base.toNat + words.toNat ≤ s.params.bufmemWords →
    ∃ t, runOps [.mmioWr 0x008#12 cfg, .mmioWr 0x00C#12 nt, .mmioWr 0x010#12 base, .mmioWr 0x014#12 words,
        .mmioWr 0x000#12 1#32] s = .next t ∧
      t.runState = .running ∧ t.err = .none ∧ t.faulted = none ∧
      t.channels.toNat = C ∧ t.decim.toNat = D ∧ t.ntaps = nt.extractLsb' 0 8 ∧
      t.s2Shift = cfg.extractLsb' 8 6 ∧ t.bufBase = base

/-! ## The producer -/

/-- R143, R144 (with R142, R286, R287): everything PORT_WORD does in a state with no model fault. The word it stores goes
to BUF_BASE + ACTIVE * L + COUNT - 1, which must be a word of BUFMEM. Of a step that a model fault abandons it says what
R285 says, FAULTED; what such a step leaves besides is in PortWordFrame. -/
def Obligations.PortWordEffect : Prop :=
  ∀ (s : State) (w : Word), s.faulted = none →
    let L := s.channels.toNat * s.decim.toNat
    let base (r : BitVec 1) := s.bufBase.toNat + r.toNat * L
    let addr := base s.active + (s.count - 1).toNat
    (s.runState ≠ .running → exec (.portWord w) s = .next { s with history := s.history ++ [.port w] }) ∧
    (s.runState = .running → s.curValid = true → s.cur.toNat = base s.active →
      ∃ t, exec (.portWord w) s = .next t ∧ t.faulted = some .tear ∧ t.bufmem = s.bufmem) ∧
    (s.runState = .running → ¬(s.curValid = true ∧ s.cur.toNat = base s.active) → addr < s.params.bufmemWords →
      (s.count ≠ 1 → exec (.portWord w) s = .next
        { s with
          history := s.history ++ [.port w]
          bufmem := s.bufmem.write addr w
          count := s.count - 1 }) ∧
      (s.count = 1 → s.slotFull = false → exec (.portWord w) s = .next
        { s with
          history := s.history ++ [.port w, .publish (BitVec.ofNat 32 (base s.active))]
          bufmem := s.bufmem.write addr w
          slotFull := true
          slotAddr := BitVec.ofNat 32 (base s.active)
          active := 1#1 - s.active
          count := BitVec.ofNat 18 L }) ∧
      (s.count = 1 → s.slotFull = true →
        ∃ t, exec (.portWord w) s = .next t ∧ t.faulted = some .slotOverrun))

/-- R293: the producer handler leaves the consumer's state, the history windows among it, and the run state untouched. -/
def Obligations.ProducerLeavesTheConsumerUntouched : Prop :=
  ∀ (s : State) (w : Word) t, s.Inv → exec (.portWord w) s = .next t →
    t.cstate = s.cstate ∧ t.ch = s.ch ∧ t.wix = s.wix ∧ t.curValid = s.curValid ∧ t.cur = s.cur ∧
    t.chan0 = s.chan0 ∧ t.chan1 = s.chan1 ∧ t.runState = s.runState ∧
    (s.runState = .running → ∀ c < s.channels.toNat, ∀ k < 8,
      t.bufmem.read (s.histBase c + k) = s.bufmem.read (s.histBase c + k))

/-- The frame of PORT_WORD (R143, R297): what it leaves unchanged, every word of BUFMEM but the one it stores to; and what
a step that TEAR or SLOT_OVERRUN abandons leaves: what it did before the raise (the model's reading of R285, log 8). -/
def Obligations.PortWordFrame : Prop :=
  (∀ (s : State) (w : Word) t, exec (.portWord w) s = .next t →
    t = { s with
      bufmem := t.bufmem, active := t.active, count := t.count, slotFull := t.slotFull, slotAddr := t.slotAddr
      history := t.history, faulted := t.faulted } ∧
    ∀ a, a ≠ s.regionBase s.active + (s.count - 1).toNat ∨ s.runState ≠ .running →
      t.bufmem.read a = s.bufmem.read a) ∧
  ∀ (s : State) (w : Word), s.faulted = none → s.runState = .running →
    (s.curValid = true ∧ s.cur.toNat = s.regionBase s.active →
      exec (.portWord w) s = .next { s with history := s.history ++ [.port w], faulted := some .tear }) ∧
    (¬(s.curValid = true ∧ s.cur.toNat = s.regionBase s.active) → s.count = 1 → s.slotFull = true →
      s.regionBase s.active + (s.count - 1).toNat < s.params.bufmemWords →
      exec (.portWord w) s = .next
        { s with
          history := s.history ++ [.port w]
          bufmem := s.bufmem.write (s.regionBase s.active + (s.count - 1).toNat) w
          count := 0#18
          faulted := some .slotOverrun })

/-- R146: from the start of a fill, the k-th port word goes to index L - k of the region being filled; with the L-th the
region is published. -/
def Obligations.FillWritesDescendingIndices : Prop :=
  ∀ (s : State) (ws : List Word), s.Inv → s.faulted = none → s.runState = .running →
    s.count.toNat = s.regionLen → ¬(s.curValid = true ∧ s.cur.toNat = s.regionBase s.active) →
    ws.length ≤ s.regionLen → (ws.length = s.regionLen → s.slotFull = false) →
    ∃ t, runOps (ws.map .portWord) s = .next t ∧ t.faulted = none ∧
      (∀ k (h : k < ws.length), t.bufmem.read (s.regionBase s.active + (s.regionLen - (k + 1))) = some ws[k]) ∧
      (ws.length = s.regionLen → t.slotFull = true ∧ t.slotAddr.toNat = s.regionBase s.active)

/-- R87, R148: the producer writes only the region ACTIVE, and neither the published nor the held region. -/
def Obligations.ProducerWritesOnlyTheActiveRegion : Prop :=
  ∀ (s : State) (w : Word) t, s.Inv → s.faulted = none → s.runState = .running → exec (.portWord w) s = .next t →
    (∀ a, t.bufmem.read a ≠ s.bufmem.read a →
      s.regionBase s.active ≤ a ∧ a < s.regionBase s.active + s.regionLen) ∧
    (s.slotFull = true → ∀ i < s.regionLen,
      t.bufmem.read (s.slotAddr.toNat + i) = s.bufmem.read (s.slotAddr.toNat + i)) ∧
    (s.curValid = true → ∀ i < s.regionLen,
      t.bufmem.read (s.cur.toNat + i) = s.bufmem.read (s.cur.toNat + i))

/-- R145: since START, with no model fault, there is one PUBLISH for every L port words. -/
def Obligations.OnePublishPerRegionOfPortWords : Prop :=
  ∀ s0 is t, StartsIn s0 → RunsTo s0 is t → t.faulted = none →
    (publishAddrs t.history).length = (publishAddrs s0.history).length + is.countP isPortOp / s0.regionLen

/-- R147: since START, the published addresses are BUF_BASE, BUF_BASE + L, BUF_BASE, and so on. -/
def Obligations.PublishedAddressesAlternate : Prop :=
  ∀ s0 is t, StartsIn s0 → RunsTo s0 is t →
    ∃ n, publishAddrs t.history = publishAddrs s0.history ++
      (List.range n).map (fun k => BitVec.ofNat 32 (s0.bufBase.toNat + (k % 2) * s0.regionLen))

/-! ## The deinterleaver -/

/-- R163, R162: deint2 word by word, and where each PDM bit of a pair goes (bit m of a channel word is the channel's bit at
period m of the pair). -/
def Obligations.Deint2WordsAndBits : Prop :=
  ∀ (d : Nat) (b : List Word), b.length = 2 * d →
    (deint2 d b).length = 2 * d ∧
    ∀ j < d,
      (deint2 d b)[j]? = some (((ce (wordAt b (2 * j))).setWidth 32 <<< 16) ||| (ce (wordAt b (2 * j + 1))).setWidth 32) ∧
      (deint2 d b)[d + j]? =
        some (((co (wordAt b (2 * j))).setWidth 32 <<< 16) ||| (co (wordAt b (2 * j + 1))).setWidth 32) ∧
      (∀ m < 16,
        (wordAt (deint2 d b) j).getLsbD m = (wordAt b (2 * j + 1)).getLsbD (2 * m) ∧
        (wordAt (deint2 d b) j).getLsbD (16 + m) = (wordAt b (2 * j)).getLsbD (2 * m) ∧
        (wordAt (deint2 d b) (d + j)).getLsbD m = (wordAt b (2 * j + 1)).getLsbD (2 * m + 1) ∧
        (wordAt (deint2 d b) (d + j)).getLsbD (16 + m) = (wordAt b (2 * j)).getLsbD (2 * m + 1))

/-- R165: inter2 word by word, the bits of spread, and that on blocks of 2D words inter2 and deint2 undo each other. -/
def Obligations.DeinterleavingIsABijection : Prop :=
  (∀ (d : Nat) (b : List Word), b.length = 2 * d →
    inter2 d (deint2 d b) = b ∧ deint2 d (inter2 d b) = b ∧
    ∀ j < d,
      (inter2 d b)[2 * j]? =
        some (spread ((wordAt b j).extractLsb' 16 16) ((wordAt b (d + j)).extractLsb' 16 16)) ∧
      (inter2 d b)[2 * j + 1]? =
        some (spread ((wordAt b j).extractLsb' 0 16) ((wordAt b (d + j)).extractLsb' 0 16))) ∧
  ∀ (e o : BitVec 16) k, k < 16 →
    (spread e o).getLsbD (2 * k) = e.getLsbD k ∧ (spread e o).getLsbD (2 * k + 1) = o.getLsbD k

/-- R164 (with R161): C_DEINT moves the controller to FilteringChannel(0) at the oldest word; with one channel it touches
no word; with two it replaces the held region in place by its deinterleaved block, and a word of it that is unwritten
raises UNINIT_READ. -/
def Obligations.DeinterleaveStepEffect : Prop :=
  ∀ s : State, s.faulted = none → s.runState = .running → s.cstate = .deint →
    let L := s.channels.toNat * s.decim.toNat
    (s.channels = 1#4 → exec .cDeint s = .next { s with cstate := .filt, ch := 0#1, wix := s.decim - 1 }) ∧
    (s.channels = 2#4 → s.cur.toNat + L ≤ s.params.bufmemWords →
      (∀ b : List Word, b.length = L → (∀ i (h : i < b.length), s.bufmem.read (s.cur.toNat + i) = some b[i]) →
        ∃ t, exec .cDeint s = .next t ∧
          t = { s with bufmem := t.bufmem, cstate := .filt, ch := 0#1, wix := s.decim - 1 } ∧
          (∀ i < L, t.bufmem.read (s.cur.toNat + i) = (deint2 s.decim.toNat b)[i]?) ∧
          (∀ a, a < s.cur.toNat ∨ s.cur.toNat + L ≤ a → t.bufmem.read a = s.bufmem.read a)) ∧
      (∀ i < L, s.bufmem.read (s.cur.toNat + i) = none →
        exec .cDeint s = .next { s with faulted := some .uninitRead }))

/-! ## Stage 1 -/

/-- R9: the saturation, the floor shift, popcount, and the even and odd bits of a word. -/
def Obligations.ArithmeticPrimitives : Prop :=
  (∀ v : Int, (sat32 v).toInt = max (-(2 ^ 31)) (min (2 ^ 31 - 1) v)) ∧
  (∀ (v : Int) (n : Nat), asr v n * 2 ^ n ≤ v ∧ v < (asr v n + 1) * 2 ^ n) ∧
  (∀ w : Word, popcount w = ((List.range 32).filter (fun k => w.getLsbD k)).length) ∧
  (∀ (w : Word) k, k < 16 → (ce w).getLsbD k = w.getLsbD (2 * k) ∧ (co w).getLsbD k = w.getLsbD (2 * k + 1))

/-- R183 with R181 and R182: s1_filter is the saturated exact sum over the 256 ages of coefficient times bit value, the
bit of age t being bit 31 - t mod 32 of word t div 32; an unwritten coefficient raises UNINIT_READ. -/
def Obligations.Stage1FilterIsTheSaturatedSum : Prop :=
  (∀ (m : BitMap) (coefs window : List Word), coefs.length = 256 →
    s1Filter m coefs window = sat32 (∑ t ∈ Finset.range 256,
      (coefs.getD t 0#32).toInt * m.value ((window.getD (t / 32) 0#32).getLsbD (31 - t % 32)))) ∧
  (BitMap.unipolar.value false = 0 ∧ BitMap.unipolar.value true = 1 ∧
    BitMap.bipolar.value false = -1 ∧ BitMap.bipolar.value true = 1) ∧
  (∀ m : Memory, (∃ t < 256, m.read t = none) → readCoefs m 0 256 = .error (.raised .uninitRead)) ∧
  (∀ (m : Memory) (coefs : List Word), coefs.length = 256 → (∀ t (h : t < coefs.length), m.read t = some coefs[t]) →
    readCoefs m 0 256 = .ok coefs)

/-- R185: with every coefficient below 2^23 in magnitude the saturation of stage 1 never acts. -/
def Obligations.Stage1DoesNotSaturateBelowTheBound : Prop :=
  ∀ (m : BitMap) (coefs window : List Word), coefs.length = 256 →
    (∀ c ∈ coefs, -(2 ^ 23) < c.toInt ∧ c.toInt < 2 ^ 23) →
    (s1Filter m coefs window).toInt = s1Sum m window 0 coefs

/-- R185's worked example: with S1_COEF = 1 for the 32 newest ages and 0 otherwise, s1_filter gives popcount of the newest
word. -/
def Obligations.PopcountFilterCountsTheNewestWord : Prop :=
  ∀ (w : Word) (rest : List Word),
    (s1Filter .unipolar (List.replicate 32 1#32 ++ List.replicate 224 0#32) (w :: rest)).toNat = popcount w

/-- R184, R186: after any number of words the window holds the newest 8 of them and of what it held before, newest first;
after 8 nothing of the initial window is left. -/
def Obligations.WindowIsAFifoOfEightWords : Prop :=
  ∀ window ws : List Word, window.length = 8 →
    ws.foldl shiftIn window = (ws.reverse ++ window).take 8 ∧
    (∀ w, shiftIn window w = w :: window.take 7) ∧
    (∀ window' : List Word, window'.length = 8 → 8 ≤ ws.length → ws.foldl shiftIn window = ws.foldl shiftIn window')

/-- R188: from the 8th zero word on, s1_filter gives 0 under UNIPOLAR, and sat32 of minus the sum of the coefficients
under BIPOLAR. -/
def Obligations.AllZeroInputGivesTheIdleOutput : Prop :=
  ∀ (coefs window : List Word) (n : Nat), coefs.length = 256 → window.length = 8 → 8 ≤ n →
    s1Filter .unipolar coefs ((List.replicate n 0#32).foldl shiftIn window) = 0#32 ∧
    s1Filter .bipolar coefs ((List.replicate n 0#32).foldl shiftIn window) =
      sat32 (-(∑ t ∈ Finset.range 256, (coefs.getD t 0#32).toInt))

/-! ## Stage 2 -/

/-- R204: s2_output is the exact sum over the NT taps, shifted right with floor, then saturated once; an unwritten
coefficient below NT raises UNINIT_READ. -/
def Obligations.Stage2OutputIsTheShiftedSaturatedSum : Prop :=
  ∀ (s : State) (c : BitVec 1),
    (∀ coef : Nat → Word, (∀ k < s.ntaps.toNat, s.s2Coef.read k = some (coef k)) →
      s.s2Output c = .ok (sat32 (asr (∑ k ∈ Finset.range s.ntaps.toNat,
        (coef k).toInt * ((s.chan c).dl.getD k 0#32).toInt) s.s2Shift.toNat))) ∧
    ((∃ k < s.ntaps.toNat, s.s2Coef.read k = none) → s.s2Output c = .error (.raised .uninitRead))

/-- R206 (a) to (c): floor of negative sums, saturation only after the shift, and a shift by 63. -/
def Obligations.Stage2NumericCorners : Prop :=
  asr (-5) 1 = -3 ∧
  (sat32 (asr (2 ^ 32) 1) = 0x7FFFFFFF#32 ∧ sat32 (asr (2 ^ 32) 2) = 0x40000000#32) ∧
  (∀ v n, asr v n > 2 ^ 31 - 1 → sat32 (asr v n) = 0x7FFFFFFF#32) ∧
  (∀ v n, asr v n < -(2 ^ 31) → sat32 (asr v n) = 0x80000000#32) ∧
  (∀ v, asr v 0 = v) ∧
  (∀ v : Int, -(2 ^ 63) < v → v < 2 ^ 63 → asr v 63 = if v < 0 then -1 else 0)

/-- R203: s2_push shifts the delay line on every input, counts the phase, and asks for an output exactly when the phase
reaches D, which it then clears; the other channel and everything else stay. -/
def Obligations.Stage2PushEffect : Prop :=
  ∀ (s : State) (c : BitVec 1) (y : Word), (s.chan c).dl.length = s.params.s2TapsMax → 1 ≤ s.params.s2TapsMax →
    (s.chan c).ph.toNat < s.decim.toNat →
    let t := (s.s2Push c y).1
    (t.chan c).dl[0]? = some y ∧
    (∀ k, k + 1 < s.params.s2TapsMax → (t.chan c).dl[k + 1]? = (s.chan c).dl[k]?) ∧
    (t.chan c).dl.length = s.params.s2TapsMax ∧
    (t.chan c).frm = (s.chan c).frm ∧
    (∀ c', c' ≠ c → t.chan c' = s.chan c') ∧
    t = { s with chan0 := t.chan0, chan1 := t.chan1 } ∧
    ((s.chan c).ph.toNat + 1 = s.decim.toNat →
      (t.chan c).ph = 0#16 ∧
      (∀ v, t.s2Output c = .ok v → (s.s2Push c y).2 = .ok (some v)) ∧
      (∀ h, t.s2Output c = .error h → (s.s2Push c y).2 = .error h)) ∧
    ((s.chan c).ph.toNat + 1 ≠ s.decim.toNat →
      (t.chan c).ph.toNat = (s.chan c).ph.toNat + 1 ∧ (s.s2Push c y).2 = .ok none)

/-- R205: from phase 0, the n-th s2_push of a channel asks for an output exactly when D divides n. -/
def Obligations.Stage2OutputCadence : Prop :=
  ∀ (s : State) (c : BitVec 1) (ys : List Word) (y : Word), 1 ≤ s.decim.toNat → (s.chan c).ph = 0#16 →
    (((ys.foldl (fun u x => (u.s2Push c x).1) s).s2Push c y).2 ≠ .ok none ↔ s.decim.toNat ∣ ys.length + 1)

/-- R207: keeping only NT positions of the delay line leaves every output of stage 2 as it is. -/
def Obligations.DelayPositionsBeyondTheTapsDoNotMatter : Prop :=
  ∀ (shift depth : Nat) (coefs dl ys : List Word), coefs.length ≤ depth →
    s2Filter shift coefs (ys.foldl (fun x y => (y :: x).take depth) dl) =
      s2Filter shift coefs (ys.foldl (fun x y => (y :: x).take coefs.length) (dl.take coefs.length))

/-! ## The controller -/

/-- R221, R290: each consumer step runs exactly when no model fault is recorded, STATE = RUNNING and its own condition
holds; otherwise it leaves the run stuck (or, after a model fault, no agent steps). -/
def Obligations.ConsumerStepsRunExactlyWhenEnabled : Prop :=
  ∀ s : State,
    (s.faulted = none →
      (exec .cTake s = .fault .notEnabled ↔ ¬(s.runState = .running ∧ s.cstate = .await ∧ s.slotFull = true)) ∧
      (exec .cDeint s = .fault .notEnabled ↔ ¬(s.runState = .running ∧ s.cstate = .deint)) ∧
      (∀ c j, exec (.cStep c j) s = .fault .notEnabled ↔
        ¬(s.runState = .running ∧ s.cstate = .filt ∧ c = s.ch ∧ j = s.wix)) ∧
      (exec .cEmit s = .fault .notEnabled ↔ ¬(s.runState = .running ∧ s.cstate = .emit))) ∧
    (∀ k, s.faulted = some k →
      (∀ i ∈ [Instr.cTake, .cDeint, .cEmit], exec i s = .fault (.modelFaulted k)) ∧
      ∀ c j, exec (.cStep c j) s = .fault (.modelFaulted k))

/-- R222: what C_TAKE does when it is enabled. -/
def Obligations.TakeStepEffect : Prop :=
  ∀ s : State, s.faulted = none → s.runState = .running → s.cstate = .await → s.slotFull = true →
    exec .cTake s = .next
      { s with
        cur := s.slotAddr, curValid := true, slotFull := false
        history := s.history ++ [.take s.slotAddr], cstate := .deint }

/-- R226 (with R185, R203, R204, R223): what C_STEP does when it is enabled, the invariant holds and the coefficients are
written: the window takes the channel word, the delay line its stage-1 output, FRM[c] the stage-2 output of the last
word, and the controller moves on. -/
def Obligations.FilterStepEffect : Prop :=
  ∀ (s : State) (c : BitVec 1) (j : BitVec 16), s.Inv → s.faulted = none → s.runState = .running →
    s.cstate = .filt → c = s.ch → j = s.wix → s.coefsWritten →
    ∃ (w : Word) (window k1 k2 : List Word) (t : State),
      s.bufmem.read (s.cur.toNat + c.toNat * s.decim.toNat + j.toNat) = some w ∧
      (window.length = 8 ∧ ∀ k < 8, s.bufmem.read (s.histBase c.toNat + k) = window[k]?) ∧
      (k1.length = 256 ∧ ∀ k < 256, s.s1Coef.read k = k1[k]?) ∧
      (k2.length = s.ntaps.toNat ∧ ∀ k < s.ntaps.toNat, s.s2Coef.read k = k2[k]?) ∧
      exec (.cStep c j) s = .next t ∧
      (∀ k < 8, t.bufmem.read (s.histBase c.toNat + k) = (w :: window)[k]?) ∧
      (∀ a, a < s.histBase c.toNat ∨ s.histBase c.toNat + 8 ≤ a → t.bufmem.read a = s.bufmem.read a) ∧
      (t.chan c).dl =
        (s1Filter s.params.bitMap k1 ((w :: window).take 8) :: (s.chan c).dl).take s.params.s2TapsMax ∧
      (j = 0#16 → (t.chan c).ph = 0#16 ∧ (t.chan c).frm = s2Filter s.s2Shift.toNat k2 (t.chan c).dl) ∧
      (j ≠ 0#16 → (t.chan c).ph = (s.chan c).ph + 1 ∧ (t.chan c).frm = (s.chan c).frm) ∧
      (∀ c', c' ≠ c → t.chan c' = s.chan c') ∧
      (j ≠ 0#16 → t.cstate = .filt ∧ t.ch = c ∧ t.wix = j - 1) ∧
      (j = 0#16 → c.toNat + 1 < s.channels.toNat → t.cstate = .filt ∧ t.ch = c + 1 ∧ t.wix = s.decim - 1) ∧
      (j = 0#16 → ¬c.toNat + 1 < s.channels.toNat → t.cstate = .emit ∧ t.ch = c ∧ t.wix = j) ∧
      t = { s with
        bufmem := t.bufmem, chan0 := t.chan0, chan1 := t.chan1, cstate := t.cstate, ch := t.ch, wix := t.wix }

/-- R323, R288: an enabled C_STEP with an unwritten S1_COEF entry raises UNINIT_READ; with those written, the step for the
last word (which gives the stage-2 output) raises it when an S2_COEF entry below NTAPS is unwritten. -/
def Obligations.UnwrittenCoefficientFaultsTheFilterStep : Prop :=
  ∀ s : State, s.Inv → s.faulted = none → s.runState = .running → s.cstate = .filt →
    ((∃ t < 256, s.s1Coef.read t = none) →
      exec (.cStep s.ch s.wix) s = .next { s with faulted := some .uninitRead }) ∧
    ((∀ t < 256, s.s1Coef.read t ≠ none) → s.wix = 0#16 → (∃ k < s.ntaps.toNat, s.s2Coef.read k = none) →
      ∃ t, exec (.cStep s.ch s.wix) s = .next t ∧ t.faulted = some .uninitRead)

/-- R229, R110: what C_EMIT does when it is enabled: a frame of the C values FRM[0] to FRM[C-1]; CUR keeps its value. -/
def Obligations.EmitStepEffect : Prop :=
  ∀ s : State, s.faulted = none → s.runState = .running → s.cstate = .emit →
    ∃ f, exec .cEmit s = .next
        { s with
          history := s.history ++ [.frame f]
          curValid := false, cstate := .await, ch := 0#1, wix := 0#16 } ∧
      (s.channels = 1#4 → f = [s.chan0.frm]) ∧ (s.channels = 2#4 → f = [s.chan0.frm, s.chan1.frm])

/-- The frame of the consumer steps C_TAKE, C_DEINT, C_STEP and C_EMIT (R87, R297): configuration, coefficients, run state,
ACTIVE, COUNT and SLOT_ADDR stay; C_TAKE and C_EMIT store nothing, C_DEINT stores only to the held region, C_STEP only to
the window of its channel. -/
def Obligations.ConsumerStepsFrame : Prop :=
  ∀ (s : State) i t, exec i s = .next t → (i = .cTake ∨ i = .cDeint ∨ i = .cEmit ∨ ∃ c j, i = .cStep c j) →
    t = { s with
      slotFull := t.slotFull, cstate := t.cstate, ch := t.ch, wix := t.wix, curValid := t.curValid, cur := t.cur
      chan0 := t.chan0, chan1 := t.chan1, bufmem := t.bufmem, history := t.history, faulted := t.faulted } ∧
    ((i = .cTake ∨ i = .cDeint ∨ i = .cEmit) → t.chan0 = s.chan0 ∧ t.chan1 = s.chan1) ∧
    (∀ a, t.bufmem.read a ≠ s.bufmem.read a →
      (i = .cDeint ∧ s.cur.toNat ≤ a ∧ a < s.cur.toNat + 2 * s.decim.toNat) ∨
      ∃ c j, i = .cStep c j ∧ s.histBase c.toNat ≤ a ∧ a < s.histBase c.toNat + 8)

/-- R231, R232: from AWAIT with a published buffer and every coefficient written, C_TAKE, C_DEINT, the C * D C_STEPs and
C_EMIT all run, 3 + C * D steps, and end in AWAIT with the region released; the frame holds, per channel, the stage-2
output over its delay line after both stages took the channel's D words, oldest first, of the deinterleaved region. -/
def Obligations.ConsumingABufferEmitsItsFrame : Prop :=
  ∀ (s : State) (b k1 k2 : List Word), s.Inv → s.faulted = none → s.runState = .running → s.cstate = .await →
    s.slotFull = true →
    (b.length = s.regionLen ∧ ∀ i (h : i < b.length), s.bufmem.read (s.slotAddr.toNat + i) = some b[i]) →
    (k1.length = 256 ∧ ∀ k (h : k < k1.length), s.s1Coef.read k = some k1[k]) →
    (k2.length = s.ntaps.toNat ∧ ∀ k (h : k < k2.length), s.s2Coef.read k = some k2[k]) →
    let C := s.channels.toNat
    let D := s.decim.toNat
    let block := if C = 2 then deint2 D b else deint1 b
    ∀ window : Nat → List Word,
      (∀ c < C, (window c).length = 8 ∧ ∀ k < 8, s.bufmem.read (s.histBase c + k) = (window c)[k]?) →
    let fed (c : Nat) := feed s.params.bitMap k1 s.params.s2TapsMax (window c, (s.chan (BitVec.ofNat 1 c)).dl)
      ((block.drop (c * D)).take D).reverse
    (consumeOps C D).length = 3 + C * D ∧
    ∃ t, runOps (consumeOps C D) s = .next t ∧ t.faulted = none ∧ t.runState = .running ∧
      t.cstate = .await ∧ t.curValid = false ∧ t.slotFull = false ∧
      t.history = s.history ++ [.take s.slotAddr,
        .frame ((List.range C).map (fun c => s2Filter s.s2Shift.toNat k2 (fed c).2))] ∧
      (∀ c < C, (t.chan (BitVec.ofNat 1 c)).dl = (fed c).2 ∧
        ∀ k < 8, t.bufmem.read (s.histBase c + k) = (fed c).1[k]?)

/-- R233: since START, with no model fault, when the consumer waits in AWAIT with the slot empty, it has taken the
published addresses in order and emitted one frame for each. -/
def Obligations.EveryPublishedBufferGivesOneFrame : Prop :=
  ∀ s0 is t, StartsIn s0 → RunsTo s0 is t → t.faulted = none → t.cstate = .await → t.slotFull = false →
    ∃ new, publishAddrs t.history = publishAddrs s0.history ++ new ∧
      takeAddrs t.history = takeAddrs s0.history ++ new ∧
      (frames t.history).length = (frames s0.history).length + new.length

/-- R320: in a run from START, RtOk holds exactly when neither SLOT_OVERRUN nor TEAR is raised. -/
def Obligations.RealTimeContractIsExactlyNoOverrunNoTear : Prop :=
  ∀ s0 is t, StartsIn s0 → s0.Inv → RunsTo s0 is t →
    (RtOk s0.regionLen is ↔ t.faulted ≠ some .slotOverrun ∧ t.faulted ≠ some .tear)

/-! ## The whole machine -/

/-- The invariant holds after reset, for every legal choice of the parameters. -/
def Obligations.InvariantHoldsAfterReset : Prop :=
  ∀ p : Params, p.wf → (State.resetWith p).Inv

/-- R50, R34, R70, R74: every step keeps the invariant, from every state that meets it. -/
def Obligations.EveryStepKeepsTheInvariant : Prop :=
  ∀ s t : State, s.Inv → step s = .next t → t.Inv

/-- R50: whatever program is loaded after reset and however many steps it takes, while STATE = RUNNING and no model fault is
recorded the invariants (a) to (e) hold. -/
def Obligations.ReachedRunningStatesMeetR50 : Prop :=
  ∀ (p : Params) (words : List Word) (n : Nat) (t : State), p.wf →
    runSteps n ((State.resetWith p).load words) = .next t →
    t.runState = .running → t.faulted = none → t.R50

/-- R42: RUNNING and FAULT are left only by RESET, and IDLE only by a write of 1 to CTRL.START. -/
def Obligations.OnlyResetLeavesRunningOrFault : Prop :=
  ∀ (s : State) i t, exec i s = .next t → i ≠ .reset →
    (s.runState = .running → t.runState = .running ∧ t.err = s.err) ∧
    (s.runState = .fault → t.runState = .fault ∧ t.err = s.err) ∧
    (s.runState = .idle → t.runState ≠ .idle → ∃ v, i = .mmioWr 0x000#12 v ∧ v.getLsbD 0 = true)

/-- R49, R285, R310: after a model fault every operation but RESET stops, whatever the state, and RESET clears it. -/
def Obligations.ModelFaultStopsEveryAgentUntilReset : Prop :=
  ∀ (s : State) k, s.faulted = some k →
    (∀ i, i ≠ .reset → exec i s = .fault (.modelFaulted k)) ∧
    ∃ t, exec .reset s = .next t ∧ t.faulted = none

/-- R49, R310: the event history only grows, RESET included. -/
def Obligations.EventHistoryOnlyGrows : Prop :=
  ∀ (s : State) i t, exec i s = .next t → s.history <+: t.history

/-- R74: no operation but RESET clears a written mark. The first clause, that no operation changes the parameters, is not
R74's: R5 makes them arguments of the model, and that they stand in a field of State is the model's choice (log 5). -/
def Obligations.OnlyResetClearsWrittenMarks : Prop :=
  ∀ (s : State) i t, exec i s = .next t →
    t.params = s.params ∧
    (i ≠ .reset → ∀ a,
      (s.bufmem.marked a = true → t.bufmem.marked a = true) ∧
      (s.s1Coef.marked a = true → t.s1Coef.marked a = true) ∧
      (s.s2Coef.marked a = true → t.s2Coef.marked a = true))

/-- R75: while the block runs, no operation but RESET changes a word of BUFMEM outside the buffer region. -/
def Obligations.RunningBlockWritesOnlyItsBufferRegion : Prop :=
  ∀ (s : State) i t, s.Inv → s.faulted = none → s.runState = .running → i ≠ .reset → exec i s = .next t →
    ∀ a, a < s.bufBase.toNat ∨ s.bufBase.toNat + s.reqSize ≤ a → t.bufmem.read a = s.bufmem.read a

/-- R72, R288: from a state that meets the invariant no operation forms an address outside BUFMEM; and while the block runs
with every coefficient written, only a host read of an unwritten coefficient entry can raise UNINIT_READ. -/
def Obligations.OnlyUnwrittenCoefficientsAreReadUninitialised : Prop :=
  (∀ (s : State) i a, s.Inv → exec i s ≠ .fault (.noSuchWord a)) ∧
  (∀ (s : State) i t, s.Inv → s.faulted = none → s.runState = .running → s.coefsWritten → exec i s = .next t →
    t.faulted = some .uninitRead → ∃ off, i = .mmioRd off)

/-- R310: RESET in every state: every register at its reset value, every written mark clear, no model fault, the event
history extended by RESET. DL, PH and FRM are unspecified (free values, log 4): nothing is said of them, nor of the fields that are
the model's own (log 1, log 9). -/
def Obligations.ResetEffect : Prop :=
  ∀ s : State, ∃ t, exec .reset s = .next t ∧
    let z := State.resetWith s.params
    t = { z with
      chan0 := t.chan0, chan1 := t.chan1
      history := s.history ++ [.reset]
      stimulus := t.stimulus, hostReads := t.hostReads, draws := t.draws } ∧
    (∀ a, t.bufmem.read a = none ∧ t.s1Coef.read a = none ∧ t.s2Coef.read a = none) ∧
    t.channels = 0 ∧ t.s2Shift = 0 ∧ t.decim = 0 ∧ t.ntaps = 0 ∧ t.bufBase = 0 ∧ t.bufWords = 0 ∧
    t.runState = .idle ∧ t.err = .none ∧ t.active = 0 ∧ t.count = 0 ∧ t.slotFull = false ∧ t.slotAddr = 0 ∧
    t.cstate = .await ∧ t.ch = 0 ∧ t.wix = 0 ∧ t.curValid = false ∧ t.cur = 0 ∧ t.faulted = none

/-- R311: after RESET, from any state, the host-visible registers read 0, an S1_COEF or S2_COEF entry raises UNINIT_READ, a
port word is only recorded and no consumer step is enabled (what is read is recorded in `hostReads`, log 9). -/
def Obligations.ResetStateSummary : Prop :=
  ∀ s t : State, s.params.wf → exec .reset s = .next t →
    (∀ off ∈ [0x000#12, 0x004#12, 0x008#12, 0x00C#12, 0x010#12, 0x014#12, 0x018#12],
      exec (.mmioRd off) t = .next { t with hostReads := t.hostReads ++ [0#32] }) ∧
    (∀ k < 256, exec (.mmioRd (BitVec.ofNat 12 (0x400 + 4 * k))) t = .next { t with faulted := some .uninitRead }) ∧
    (∀ k < s.params.s2TapsMax,
      exec (.mmioRd (BitVec.ofNat 12 (0x800 + 4 * k))) t = .next { t with faulted := some .uninitRead }) ∧
    (∀ w, exec (.portWord w) t = .next { t with history := t.history ++ [.port w] }) ∧
    (∀ i ∈ [Instr.cTake, .cDeint, .cEmit], exec i t = .fault .notEnabled) ∧
    ∀ c j, exec (.cStep c j) t = .fault .notEnabled
end

