-- ==== Sys2Proof/Laws/Bits.lean ====
section
/-! SUPPORT. What `packBits` says bit by bit, and the facts about one-bit numbers that the two regions need. -/

namespace Sys2Proof.Machine

/-- A number of `n` packed bits is below 2^n. -/
theorem packBits_lt (f : Nat → Bool) (n : Nat) : packBits f n < 2 ^ n := by
  induction n with
  | zero => simp [packBits]
  | succ n ih =>
    rw [packBits]
    have : (f n).toNat ≤ 1 := by cases f n <;> simp
    rw [pow_succ]
    nlinarith [Nat.two_pow_pos n]

/-- Bit `k` of the packed bits is `f k`. -/
theorem packBits_testBit (f : Nat → Bool) {n k : Nat} (h : k < n) : (packBits f n).testBit k = f k := by
  induction n with
  | zero => omega
  | succ n ih =>
    rw [packBits, add_comm, mul_comm, Nat.testBit_two_pow_mul_add _ (packBits_lt f n)]
    by_cases hk : k < n
    · simp [hk, ih hk]
    · obtain rfl : k = n := by omega
      cases f k <;> simp

/-- A one-bit number is 0 or 1. -/
theorem bit_cases (a : BitVec 1) : a = 0#1 ∨ a = 1#1 := by revert a; decide

/-- The other region of the other region is the region itself. -/
theorem other_other (a : BitVec 1) : 1#1 - (1#1 - a) = a := by revert a; decide

/-- The other region is another one. -/
theorem other_ne (a : BitVec 1) : 1#1 - a ≠ a := by revert a; decide

end Sys2Proof.Machine
end

