-- ==== Sys2Proof/Laws/Decode.lean ====
section
/-! SUPPORT. The fields of an operation word built from its parts, what the decoder makes of it, and the decoder on a
sequence that begins with the words of one operation. -/

namespace Sys2Proof

/-! ## Fields of a concatenation -/

theorem extract_append_low {m n : Nat} (a : BitVec n) (b : BitVec m) {s l : Nat} (h : s + l ≤ m) :
    (a ++ b).extractLsb' s l = b.extractLsb' s l := by
  ext i hi
  simp only [BitVec.getElem_extractLsb', BitVec.getLsbD_append]
  rw [if_pos (by omega)]

theorem extract_append_high {m n : Nat} (a : BitVec n) (b : BitVec m) {s l : Nat} (h : m ≤ s) :
    (a ++ b).extractLsb' s l = a.extractLsb' (s - m) l := by
  ext i hi
  simp only [BitVec.getElem_extractLsb', BitVec.getLsbD_append]
  rw [if_neg (by omega), show s + i - m = s - m + i by omega]

theorem extract_all {n : Nat} (a : BitVec n) : a.extractLsb' 0 n = a := by
  ext i hi
  simp

/-- A field is its upper part over its lower part. -/
theorem extract_split {n : Nat} (a : BitVec n) (s h l : Nat) :
    a.extractLsb' s (h + l) = a.extractLsb' (s + l) h ++ a.extractLsb' s l := by
  apply BitVec.eq_of_getLsbD_eq
  intro i hi
  simp only [BitVec.getLsbD_append, BitVec.getLsbD_extractLsb']
  split_ifs with h1
  · simp [h1, hi]
  · rw [show s + l + (i - l) = s + i by omega]
    simp [show i - l < h by omega, hi]

/-- A word in format N or P. -/
theorem word_n (w : Word) : w = opField w ++ w.extractLsb' 0 28 :=
  (extract_all w).symm.trans (extract_split w 0 4 28)

/-- A word in format M. -/
theorem word_m (w : Word) : w = opField w ++ w.extractLsb' 12 16 ++ offField w := by
  have h1 : w.extractLsb' 0 32 = w.extractLsb' 12 20 ++ w.extractLsb' 0 12 := extract_split w 0 20 12
  have h2 : w.extractLsb' 12 20 = w.extractLsb' 28 4 ++ w.extractLsb' 12 16 := extract_split w 12 4 16
  rw [h2, extract_all] at h1
  exact h1

/-- A word in format S. -/
theorem word_s (w : Word) : w = opField w ++ w.extractLsb' 17 11 ++ chnField w ++ wixField w := by
  have h1 : w.extractLsb' 0 32 = w.extractLsb' 16 16 ++ w.extractLsb' 0 16 := extract_split w 0 16 16
  have h2 : w.extractLsb' 16 16 = w.extractLsb' 17 15 ++ w.extractLsb' 16 1 := extract_split w 16 15 1
  have h3 : w.extractLsb' 17 15 = w.extractLsb' 28 4 ++ w.extractLsb' 17 11 := extract_split w 17 4 11
  rw [h2, h3, extract_all] at h1
  exact h1

/-! ## The format words -/

theorem opField_n (op : BitVec 4) : opField (op ++ 0#28) = op :=
  (extract_append_high op 0#28 (Nat.le_refl 28)).trans (extract_all op)

theorem zeroFieldN_n (op : BitVec 4) : zeroFieldN (op ++ 0#28) = true := by
  unfold zeroFieldN
  rw [extract_append_low op 0#28 (Nat.le_refl 28)]
  rfl

theorem opField_m (op : BitVec 4) (off : BitVec 12) : opField (op ++ 0#16 ++ off) = op := by
  have h1 := extract_append_high (op ++ 0#16) off (s := 28) (l := 4) (by omega)
  have h2 := extract_append_high op 0#16 (s := 16) (l := 4) (by omega)
  exact h1.trans (h2.trans (extract_all op))

theorem offField_m (op : BitVec 4) (off : BitVec 12) : offField (op ++ 0#16 ++ off) = off :=
  (extract_append_low (op ++ 0#16) off (Nat.le_refl 12)).trans (extract_all off)

theorem zeroFieldM_m (op : BitVec 4) (off : BitVec 12) : zeroFieldM (op ++ 0#16 ++ off) = offsetAligned off := by
  have h1 := extract_append_high (op ++ 0#16) off (s := 12) (l := 16) (by omega)
  have h2 := extract_append_low op 0#16 (s := 0) (l := 16) (by omega)
  have h3 := extract_append_low (op ++ 0#16) off (s := 0) (l := 2) (by omega)
  unfold zeroFieldM offsetAligned
  rw [h1, h2, h3]
  rfl

theorem opField_s (op : BitVec 4) (c : BitVec 1) (j : BitVec 16) : opField (op ++ 0#11 ++ c ++ j) = op := by
  have h1 := extract_append_high (op ++ 0#11 ++ c) j (s := 28) (l := 4) (by omega)
  have h2 := extract_append_high (op ++ 0#11) c (s := 12) (l := 4) (by omega)
  have h3 := extract_append_high op 0#11 (s := 11) (l := 4) (by omega)
  exact h1.trans (h2.trans (h3.trans (extract_all op)))

theorem chnField_s (op : BitVec 4) (c : BitVec 1) (j : BitVec 16) : chnField (op ++ 0#11 ++ c ++ j) = c := by
  have h1 := extract_append_high (op ++ 0#11 ++ c) j (s := 16) (l := 1) (by omega)
  have h2 := extract_append_low (op ++ 0#11) c (s := 0) (l := 1) (by omega)
  exact h1.trans (h2.trans (extract_all c))

theorem wixField_s (op : BitVec 4) (c : BitVec 1) (j : BitVec 16) : wixField (op ++ 0#11 ++ c ++ j) = j :=
  (extract_append_low (op ++ 0#11 ++ c) j (Nat.le_refl 16)).trans (extract_all j)

theorem zeroFieldS_s (op : BitVec 4) (c : BitVec 1) (j : BitVec 16) : zeroFieldS (op ++ 0#11 ++ c ++ j) = true := by
  have h1 := extract_append_high (op ++ 0#11 ++ c) j (s := 17) (l := 11) (by omega)
  have h2 := extract_append_high (op ++ 0#11) c (s := 1) (l := 11) (by omega)
  have h3 := extract_append_low op 0#11 (s := 0) (l := 11) (by omega)
  unfold zeroFieldS
  rw [h1, h2, h3]
  rfl

/-! ## One operation word -/

theorem decodeOp_mmioWr {off : BitVec 12} (h : offsetAligned off = true) :
    decodeOp (0x1#4 ++ 0#16 ++ off) = some (.needsPayload (.mmioWr off)) := by
  unfold decodeOp
  rw [opField_m, zeroFieldM_m, offField_m, h]
  rfl

theorem decodeOp_mmioRd {off : BitVec 12} (h : offsetAligned off = true) :
    decodeOp (0x2#4 ++ 0#16 ++ off) = some (.complete (.mmioRd off)) := by
  unfold decodeOp
  rw [opField_m, zeroFieldM_m, offField_m, h]
  rfl

theorem decodeOp_portWord : decodeOp (0x3#4 ++ 0#28) = some (.needsPayload .portWord) := by
  unfold decodeOp
  rw [opField_n, zeroFieldN_n]
  rfl

theorem decodeOp_cTake : decodeOp (0x8#4 ++ 0#28) = some (.complete .cTake) := by
  unfold decodeOp
  rw [opField_n, zeroFieldN_n]
  rfl

theorem decodeOp_cDeint : decodeOp (0x9#4 ++ 0#28) = some (.complete .cDeint) := by
  unfold decodeOp
  rw [opField_n, zeroFieldN_n]
  rfl

theorem decodeOp_cStep (c : BitVec 1) (j : BitVec 16) :
    decodeOp (0xA#4 ++ 0#11 ++ c ++ j) = some (.complete (.cStep c j)) := by
  unfold decodeOp
  rw [opField_s, zeroFieldS_s, chnField_s, wixField_s]
  rfl

theorem decodeOp_cEmit : decodeOp (0xB#4 ++ 0#28) = some (.complete .cEmit) := by
  unfold decodeOp
  rw [opField_n, zeroFieldN_n]
  rfl

theorem decodeOp_reset : decodeOp (0xF#4 ++ 0#28) = some (.complete .reset) := by
  unfold decodeOp
  rw [opField_n, zeroFieldN_n]
  rfl

/-- Which words a whole operation has: those of its encoding. -/
theorem decodeOp_complete {w : Word} {i : Instr} (h : decodeOp w = some (.complete i)) :
    encode i = [w] ∧ i.wellFormed = true := by
  have hn (op : BitVec 4) (ho : (opField w).toNat = op.toNat) (hz : zeroFieldN w = true) : op ++ 0#28 = w := by
    have h1 := word_n w
    rw [BitVec.eq_of_toNat_eq ho, eq_of_beq hz] at h1
    exact h1.symm
  unfold decodeOp at h
  split at h <;> (try split_ifs at h) <;>
    simp only [Option.some.injEq, OpWord.complete.injEq, reduceCtorEq] at h <;> rename_i ho hz <;> subst h
  · simp only [zeroFieldM, Bool.and_eq_true] at hz
    have h1 := word_m w
    rw [BitVec.eq_of_toNat_eq (y := 0x2#4) ho, eq_of_beq hz.1] at h1
    refine ⟨congrArg (fun x => [x]) h1.symm, ?_⟩
    have h2 : (offField w).extractLsb' 0 2 = w.extractLsb' 0 2 := by
      ext i hi
      simp [offField]
    simp only [Instr.wellFormed, offsetAligned, h2, hz.2]
  · exact ⟨congrArg (fun x => [x]) (hn 0x8#4 ho hz), rfl⟩
  · exact ⟨congrArg (fun x => [x]) (hn 0x9#4 ho hz), rfl⟩
  · have h1 := word_s w
    rw [BitVec.eq_of_toNat_eq (y := 0xA#4) ho, eq_of_beq hz] at h1
    exact ⟨congrArg (fun x => [x]) h1.symm, rfl⟩
  · exact ⟨congrArg (fun x => [x]) (hn 0xB#4 ho hz), rfl⟩
  · exact ⟨congrArg (fun x => [x]) (hn 0xF#4 ho hz), rfl⟩

/-- Which words an operation with a payload has: those of its encoding. -/
theorem decodeOp_needsPayload {w : Word} {p : PayloadOp} (h : decodeOp w = some (.needsPayload p)) (d : Word) :
    encode (p.withPayload d) = [w, d] ∧ (p.withPayload d).wellFormed = true := by
  unfold decodeOp at h
  split at h <;> (try split_ifs at h) <;>
    simp only [Option.some.injEq, OpWord.needsPayload.injEq, reduceCtorEq] at h <;> rename_i ho hz <;> subst h
  · simp only [zeroFieldM, Bool.and_eq_true] at hz
    have h1 := word_m w
    rw [BitVec.eq_of_toNat_eq (y := 0x1#4) ho, eq_of_beq hz.1] at h1
    refine ⟨congrArg (fun x => [x, d]) h1.symm, ?_⟩
    have h2 : (offField w).extractLsb' 0 2 = w.extractLsb' 0 2 := by
      ext i hi
      simp [offField]
    simp only [PayloadOp.withPayload, Instr.wellFormed, offsetAligned, h2, hz.2]
  · have h1 := word_n w
    rw [BitVec.eq_of_toNat_eq (y := 0x3#4) ho, eq_of_beq hz] at h1
    exact ⟨congrArg (fun x => [x, d]) h1.symm, rfl⟩

/-! ## The decoder on a sequence -/

theorem decodeAll_complete {w : Word} {i : Instr} (h : decodeOp w = some (.complete i)) (rest : List Word) :
    decodeAll (w :: rest) = (decodeAll rest).after i := by
  rw [decodeAll, h]

theorem decodeAll_payload {w : Word} {p : PayloadOp} (h : decodeOp w = some (.needsPayload p)) (d : Word)
    (rest : List Word) : decodeAll (w :: d :: rest) = (decodeAll rest).after (p.withPayload d) := by
  rw [decodeAll, h]

theorem decodeAll_noPayload {w : Word} {p : PayloadOp} (h : decodeOp w = some (.needsPayload p)) :
    decodeAll [w] = .invalid 0 := by
  rw [decodeAll, h]

theorem decodeAll_invalid {w : Word} (h : decodeOp w = none) (rest : List Word) :
    decodeAll (w :: rest) = .invalid 0 := by
  rw [decodeAll, h]

/-- Every nonempty sequence is INVALID at its first word, or begins with the words of one operation. -/
theorem decodeAll_cases (w : Word) (ws : List Word) :
    decodeAll (w :: ws) = .invalid 0 ∨
      (∃ i, decodeOp w = some (.complete i) ∧ decodeAll (w :: ws) = (decodeAll ws).after i) ∨
      (∃ p d rest, decodeOp w = some (.needsPayload p) ∧ ws = d :: rest ∧
        decodeAll (w :: ws) = (decodeAll rest).after (p.withPayload d)) := by
  cases h : decodeOp w with
  | none => exact .inl (decodeAll_invalid h ws)
  | some o =>
    cases o with
    | complete i => exact .inr (.inl ⟨i, rfl, decodeAll_complete h ws⟩)
    | needsPayload p =>
      cases ws with
      | nil => exact .inl (decodeAll_noPayload h)
      | cons d rest => exact .inr (.inr ⟨p, d, rest, rfl, rfl, decodeAll_payload h d rest⟩)

theorem encode_length (i : Instr) : (encode i).length = i.length := by cases i <;> rfl

/-- Induction over a sequence as the decoder reads it. -/
theorem decodeAll_induct {P : List Word → Prop} (nil : P [])
    (bad : ∀ w ws, decodeAll (w :: ws) = .invalid 0 → P (w :: ws))
    (op : ∀ i rest, i.wellFormed = true → P rest → P (encode i ++ rest)) (ws : List Word) : P ws := by
  induction hn : ws.length using Nat.strong_induction_on generalizing ws with
  | _ n ih =>
    cases ws with
    | nil => exact nil
    | cons w ws =>
      rcases decodeAll_cases w ws with h | ⟨i, h1, -⟩ | ⟨p, d, rest, h1, rfl, -⟩
      · exact bad w ws h
      · obtain ⟨e, hw⟩ := decodeOp_complete h1
        have := op i ws hw (ih ws.length (by simp at hn; omega) ws rfl)
        rwa [e] at this
      · obtain ⟨e, hw⟩ := decodeOp_needsPayload h1 d
        have := op _ rest hw (ih rest.length (by simp at hn; omega) rest rfl)
        rwa [e] at this

@[simp] theorem Verdict.after_operations (i : Instr) (is : List Instr) :
    (Verdict.operations is).after i = .operations (i :: is) := rfl

@[simp] theorem Verdict.after_invalid (i : Instr) (k : Nat) :
    (Verdict.invalid k).after i = .invalid (i.length + k) := rfl

theorem Verdict.after_eq_operations {v : Verdict} {i : Instr} {js : List Instr} (h : v.after i = .operations js) :
    ∃ is, v = .operations is ∧ js = i :: is := by
  cases v with
  | operations is => exact ⟨is, rfl, by simpa [eq_comm] using h⟩
  | invalid k => simp at h

/-! ## A word under the mask of a table row -/

/-- A field of a masked word. -/
theorem extract_and {n : Nat} (a b : BitVec n) (s l : Nat) :
    (a &&& b).extractLsb' s l = a.extractLsb' s l &&& b.extractLsb' s l := by
  apply BitVec.eq_of_getLsbD_eq
  intro i hi
  simp [hi]

/-- Format M: the masked word is the match exactly when OP is the match's and the Z bits are zero. -/
theorem mask_m (w : Word) (op : BitVec 4) :
    w &&& 0xFFFFF003#32 = op ++ 0#28 ↔ opField w = op ∧ zeroFieldM w = true := by
  have e1 : (w &&& 0xFFFFF003#32).extractLsb' 28 4 = opField w :=
    (extract_and w 0xFFFFF003#32 28 4).trans (BitVec.and_allOnes (x := opField w))
  have e2 : (w &&& 0xFFFFF003#32).extractLsb' 12 16 = w.extractLsb' 12 16 :=
    (extract_and w 0xFFFFF003#32 12 16).trans (BitVec.and_allOnes (x := w.extractLsb' 12 16))
  have e3 : (w &&& 0xFFFFF003#32).extractLsb' 2 10 = 0#10 :=
    (extract_and w 0xFFFFF003#32 2 10).trans (BitVec.and_zero (x := w.extractLsb' 2 10))
  have e4 : (w &&& 0xFFFFF003#32).extractLsb' 0 2 = w.extractLsb' 0 2 :=
    (extract_and w 0xFFFFF003#32 0 2).trans (BitVec.and_allOnes (x := w.extractLsb' 0 2))
  have f1 : opField (op ++ 0#28) = op := opField_n op
  have low (s l : Nat) (h : s + l ≤ 28) : (op ++ 0#28 : Word).extractLsb' s l = 0#l := by
    rw [extract_append_low op 0#28 h]
    simp
  simp only [zeroFieldM, Bool.and_eq_true, beq_iff_eq]
  constructor
  · intro h
    refine ⟨?_, ?_, ?_⟩
    · rw [← e1, h]
      exact f1
    · rw [← e2, h]
      exact low 12 16 (by omega)
    · rw [← e4, h]
      exact low 0 2 (by omega)
  · rintro ⟨h1, h2, h3⟩
    have h0 : (w &&& 0xFFFFF003#32).extractLsb' 0 12 = 0#12 := by
      have e5 : (w &&& 0xFFFFF003#32).extractLsb' 0 12 =
          (w &&& 0xFFFFF003#32).extractLsb' 2 10 ++ (w &&& 0xFFFFF003#32).extractLsb' 0 2 :=
        extract_split (w &&& 0xFFFFF003#32) 0 10 2
      rw [e5, e3, e4, h3]
      rfl
    have hw := word_m (w &&& 0xFFFFF003#32)
    unfold opField offField at hw
    rw [e1, e2, h0, h1, h2] at hw
    rw [hw, word_m (op ++ 0#28)]
    unfold offField
    rw [f1, low 12 16 (by omega), low 0 12 (by omega)]

/-- Formats N and P. -/
theorem mask_n (w : Word) (op : BitVec 4) :
    w &&& 0xFFFFFFFF#32 = op ++ 0#28 ↔ opField w = op ∧ zeroFieldN w = true := by
  rw [show w &&& 0xFFFFFFFF#32 = w from BitVec.and_allOnes (x := w)]
  simp only [zeroFieldN, beq_iff_eq]
  constructor
  · rintro rfl
    exact ⟨opField_n op, by rw [extract_append_low op 0#28 (Nat.le_refl 28)]; simp⟩
  · rintro ⟨h1, h2⟩
    rw [word_n w, h1, h2]

/-- Format S. -/
theorem mask_s (w : Word) (op : BitVec 4) :
    w &&& 0xFFFE0000#32 = op ++ 0#28 ↔ opField w = op ∧ zeroFieldS w = true := by
  have e1 : (w &&& 0xFFFE0000#32).extractLsb' 28 4 = opField w :=
    (extract_and w 0xFFFE0000#32 28 4).trans (BitVec.and_allOnes (x := opField w))
  have e2 : (w &&& 0xFFFE0000#32).extractLsb' 17 11 = w.extractLsb' 17 11 :=
    (extract_and w 0xFFFE0000#32 17 11).trans (BitVec.and_allOnes (x := w.extractLsb' 17 11))
  have e3 : (w &&& 0xFFFE0000#32).extractLsb' 0 17 = 0#17 :=
    (extract_and w 0xFFFE0000#32 0 17).trans (BitVec.and_zero (x := w.extractLsb' 0 17))
  simp only [zeroFieldS, beq_iff_eq]
  constructor
  · intro h
    refine ⟨?_, ?_⟩
    · rw [← e1, h]
      exact opField_n op
    · rw [← e2, h, extract_append_low op 0#28 (by omega)]
      simp
  · rintro ⟨h1, h2⟩
    rw [word_n (w &&& 0xFFFE0000#32)]
    unfold opField
    have e4 : (w &&& 0xFFFE0000#32).extractLsb' 0 28 =
        (w &&& 0xFFFE0000#32).extractLsb' 17 11 ++ (w &&& 0xFFFE0000#32).extractLsb' 0 17 :=
      extract_split (w &&& 0xFFFE0000#32) 0 11 17
    rw [e1, h1, e4, e2, e3, h2]
    rfl

end Sys2Proof
end

