-- ==== Sys2Proof/Laws/State.lean ====
section
/-! SUPPORT. What each named update of the state does to each field and to each derived size: one lemma per field and
update. -/

namespace Sys2Proof.Machine

/-! ### `State.setBufmem` -/

@[simp] theorem State.setBufmem_params (s : State) (m : Memory) : (s.setBufmem m).params = s.params := rfl
@[simp] theorem State.setBufmem_channels (s : State) (m : Memory) : (s.setBufmem m).channels = s.channels := rfl
@[simp] theorem State.setBufmem_s2Shift (s : State) (m : Memory) : (s.setBufmem m).s2Shift = s.s2Shift := rfl
@[simp] theorem State.setBufmem_decim (s : State) (m : Memory) : (s.setBufmem m).decim = s.decim := rfl
@[simp] theorem State.setBufmem_ntaps (s : State) (m : Memory) : (s.setBufmem m).ntaps = s.ntaps := rfl
@[simp] theorem State.setBufmem_bufBase (s : State) (m : Memory) : (s.setBufmem m).bufBase = s.bufBase := rfl
@[simp] theorem State.setBufmem_bufWords (s : State) (m : Memory) : (s.setBufmem m).bufWords = s.bufWords := rfl
@[simp] theorem State.setBufmem_s1Coef (s : State) (m : Memory) : (s.setBufmem m).s1Coef = s.s1Coef := rfl
@[simp] theorem State.setBufmem_s2Coef (s : State) (m : Memory) : (s.setBufmem m).s2Coef = s.s2Coef := rfl
@[simp] theorem State.setBufmem_runState (s : State) (m : Memory) : (s.setBufmem m).runState = s.runState := rfl
@[simp] theorem State.setBufmem_err (s : State) (m : Memory) : (s.setBufmem m).err = s.err := rfl
@[simp] theorem State.setBufmem_active (s : State) (m : Memory) : (s.setBufmem m).active = s.active := rfl
@[simp] theorem State.setBufmem_count (s : State) (m : Memory) : (s.setBufmem m).count = s.count := rfl
@[simp] theorem State.setBufmem_slotFull (s : State) (m : Memory) : (s.setBufmem m).slotFull = s.slotFull := rfl
@[simp] theorem State.setBufmem_slotAddr (s : State) (m : Memory) : (s.setBufmem m).slotAddr = s.slotAddr := rfl
@[simp] theorem State.setBufmem_cstate (s : State) (m : Memory) : (s.setBufmem m).cstate = s.cstate := rfl
@[simp] theorem State.setBufmem_ch (s : State) (m : Memory) : (s.setBufmem m).ch = s.ch := rfl
@[simp] theorem State.setBufmem_wix (s : State) (m : Memory) : (s.setBufmem m).wix = s.wix := rfl
@[simp] theorem State.setBufmem_curValid (s : State) (m : Memory) : (s.setBufmem m).curValid = s.curValid := rfl
@[simp] theorem State.setBufmem_cur (s : State) (m : Memory) : (s.setBufmem m).cur = s.cur := rfl
@[simp] theorem State.setBufmem_chan0 (s : State) (m : Memory) : (s.setBufmem m).chan0 = s.chan0 := rfl
@[simp] theorem State.setBufmem_chan1 (s : State) (m : Memory) : (s.setBufmem m).chan1 = s.chan1 := rfl
@[simp] theorem State.setBufmem_bufmem (s : State) (m : Memory) : (s.setBufmem m).bufmem = m := rfl
@[simp] theorem State.setBufmem_faulted (s : State) (m : Memory) : (s.setBufmem m).faulted = s.faulted := rfl
@[simp] theorem State.setBufmem_history (s : State) (m : Memory) : (s.setBufmem m).history = s.history := rfl
@[simp] theorem State.setBufmem_stimulus (s : State) (m : Memory) : (s.setBufmem m).stimulus = s.stimulus := rfl
@[simp] theorem State.setBufmem_hostReads (s : State) (m : Memory) : (s.setBufmem m).hostReads = s.hostReads := rfl
@[simp] theorem State.setBufmem_draws (s : State) (m : Memory) : (s.setBufmem m).draws = s.draws := rfl
@[simp] theorem State.setBufmem_numChannels (s : State) (m : Memory) : (s.setBufmem m).numChannels = s.numChannels := rfl
@[simp] theorem State.setBufmem_decimation (s : State) (m : Memory) : (s.setBufmem m).decimation = s.decimation := rfl
@[simp] theorem State.setBufmem_regionLen (s : State) (m : Memory) : (s.setBufmem m).regionLen = s.regionLen := rfl
@[simp] theorem State.setBufmem_reqSize (s : State) (m : Memory) : (s.setBufmem m).reqSize = s.reqSize := rfl
@[simp] theorem State.setBufmem_regionBase (s : State) (m : Memory) (z : BitVec 1) : (s.setBufmem m).regionBase z = s.regionBase z := rfl
@[simp] theorem State.setBufmem_histBase (s : State) (m : Memory) (z : Nat) : (s.setBufmem m).histBase z = s.histBase z := rfl

/-! ### `State.countDown` -/

@[simp] theorem State.countDown_params (s : State) : (s.countDown).params = s.params := rfl
@[simp] theorem State.countDown_channels (s : State) : (s.countDown).channels = s.channels := rfl
@[simp] theorem State.countDown_s2Shift (s : State) : (s.countDown).s2Shift = s.s2Shift := rfl
@[simp] theorem State.countDown_decim (s : State) : (s.countDown).decim = s.decim := rfl
@[simp] theorem State.countDown_ntaps (s : State) : (s.countDown).ntaps = s.ntaps := rfl
@[simp] theorem State.countDown_bufBase (s : State) : (s.countDown).bufBase = s.bufBase := rfl
@[simp] theorem State.countDown_bufWords (s : State) : (s.countDown).bufWords = s.bufWords := rfl
@[simp] theorem State.countDown_s1Coef (s : State) : (s.countDown).s1Coef = s.s1Coef := rfl
@[simp] theorem State.countDown_s2Coef (s : State) : (s.countDown).s2Coef = s.s2Coef := rfl
@[simp] theorem State.countDown_runState (s : State) : (s.countDown).runState = s.runState := rfl
@[simp] theorem State.countDown_err (s : State) : (s.countDown).err = s.err := rfl
@[simp] theorem State.countDown_active (s : State) : (s.countDown).active = s.active := rfl
@[simp] theorem State.countDown_count (s : State) : (s.countDown).count = s.count - 1 := rfl
@[simp] theorem State.countDown_slotFull (s : State) : (s.countDown).slotFull = s.slotFull := rfl
@[simp] theorem State.countDown_slotAddr (s : State) : (s.countDown).slotAddr = s.slotAddr := rfl
@[simp] theorem State.countDown_cstate (s : State) : (s.countDown).cstate = s.cstate := rfl
@[simp] theorem State.countDown_ch (s : State) : (s.countDown).ch = s.ch := rfl
@[simp] theorem State.countDown_wix (s : State) : (s.countDown).wix = s.wix := rfl
@[simp] theorem State.countDown_curValid (s : State) : (s.countDown).curValid = s.curValid := rfl
@[simp] theorem State.countDown_cur (s : State) : (s.countDown).cur = s.cur := rfl
@[simp] theorem State.countDown_chan0 (s : State) : (s.countDown).chan0 = s.chan0 := rfl
@[simp] theorem State.countDown_chan1 (s : State) : (s.countDown).chan1 = s.chan1 := rfl
@[simp] theorem State.countDown_bufmem (s : State) : (s.countDown).bufmem = s.bufmem := rfl
@[simp] theorem State.countDown_faulted (s : State) : (s.countDown).faulted = s.faulted := rfl
@[simp] theorem State.countDown_history (s : State) : (s.countDown).history = s.history := rfl
@[simp] theorem State.countDown_stimulus (s : State) : (s.countDown).stimulus = s.stimulus := rfl
@[simp] theorem State.countDown_hostReads (s : State) : (s.countDown).hostReads = s.hostReads := rfl
@[simp] theorem State.countDown_draws (s : State) : (s.countDown).draws = s.draws := rfl
@[simp] theorem State.countDown_numChannels (s : State) : (s.countDown).numChannels = s.numChannels := rfl
@[simp] theorem State.countDown_decimation (s : State) : (s.countDown).decimation = s.decimation := rfl
@[simp] theorem State.countDown_regionLen (s : State) : (s.countDown).regionLen = s.regionLen := rfl
@[simp] theorem State.countDown_reqSize (s : State) : (s.countDown).reqSize = s.reqSize := rfl
@[simp] theorem State.countDown_regionBase (s : State) (z : BitVec 1) : (s.countDown).regionBase z = s.regionBase z := rfl
@[simp] theorem State.countDown_histBase (s : State) (z : Nat) : (s.countDown).histBase z = s.histBase z := rfl

/-! ### `State.log` -/

@[simp] theorem State.log_params (s : State) (e : Event) : (s.log e).params = s.params := rfl
@[simp] theorem State.log_channels (s : State) (e : Event) : (s.log e).channels = s.channels := rfl
@[simp] theorem State.log_s2Shift (s : State) (e : Event) : (s.log e).s2Shift = s.s2Shift := rfl
@[simp] theorem State.log_decim (s : State) (e : Event) : (s.log e).decim = s.decim := rfl
@[simp] theorem State.log_ntaps (s : State) (e : Event) : (s.log e).ntaps = s.ntaps := rfl
@[simp] theorem State.log_bufBase (s : State) (e : Event) : (s.log e).bufBase = s.bufBase := rfl
@[simp] theorem State.log_bufWords (s : State) (e : Event) : (s.log e).bufWords = s.bufWords := rfl
@[simp] theorem State.log_s1Coef (s : State) (e : Event) : (s.log e).s1Coef = s.s1Coef := rfl
@[simp] theorem State.log_s2Coef (s : State) (e : Event) : (s.log e).s2Coef = s.s2Coef := rfl
@[simp] theorem State.log_runState (s : State) (e : Event) : (s.log e).runState = s.runState := rfl
@[simp] theorem State.log_err (s : State) (e : Event) : (s.log e).err = s.err := rfl
@[simp] theorem State.log_active (s : State) (e : Event) : (s.log e).active = s.active := rfl
@[simp] theorem State.log_count (s : State) (e : Event) : (s.log e).count = s.count := rfl
@[simp] theorem State.log_slotFull (s : State) (e : Event) : (s.log e).slotFull = s.slotFull := rfl
@[simp] theorem State.log_slotAddr (s : State) (e : Event) : (s.log e).slotAddr = s.slotAddr := rfl
@[simp] theorem State.log_cstate (s : State) (e : Event) : (s.log e).cstate = s.cstate := rfl
@[simp] theorem State.log_ch (s : State) (e : Event) : (s.log e).ch = s.ch := rfl
@[simp] theorem State.log_wix (s : State) (e : Event) : (s.log e).wix = s.wix := rfl
@[simp] theorem State.log_curValid (s : State) (e : Event) : (s.log e).curValid = s.curValid := rfl
@[simp] theorem State.log_cur (s : State) (e : Event) : (s.log e).cur = s.cur := rfl
@[simp] theorem State.log_chan0 (s : State) (e : Event) : (s.log e).chan0 = s.chan0 := rfl
@[simp] theorem State.log_chan1 (s : State) (e : Event) : (s.log e).chan1 = s.chan1 := rfl
@[simp] theorem State.log_bufmem (s : State) (e : Event) : (s.log e).bufmem = s.bufmem := rfl
@[simp] theorem State.log_faulted (s : State) (e : Event) : (s.log e).faulted = s.faulted := rfl
@[simp] theorem State.log_history (s : State) (e : Event) : (s.log e).history = s.history ++ [e] := rfl
@[simp] theorem State.log_stimulus (s : State) (e : Event) : (s.log e).stimulus = s.stimulus := rfl
@[simp] theorem State.log_hostReads (s : State) (e : Event) : (s.log e).hostReads = s.hostReads := rfl
@[simp] theorem State.log_draws (s : State) (e : Event) : (s.log e).draws = s.draws := rfl
@[simp] theorem State.log_numChannels (s : State) (e : Event) : (s.log e).numChannels = s.numChannels := rfl
@[simp] theorem State.log_decimation (s : State) (e : Event) : (s.log e).decimation = s.decimation := rfl
@[simp] theorem State.log_regionLen (s : State) (e : Event) : (s.log e).regionLen = s.regionLen := rfl
@[simp] theorem State.log_reqSize (s : State) (e : Event) : (s.log e).reqSize = s.reqSize := rfl
@[simp] theorem State.log_regionBase (s : State) (e : Event) (z : BitVec 1) : (s.log e).regionBase z = s.regionBase z := rfl
@[simp] theorem State.log_histBase (s : State) (e : Event) (z : Nat) : (s.log e).histBase z = s.histBase z := rfl

/-! ### `State.raise` -/

@[simp] theorem State.raise_params (s : State) (k : ModelFault) : (s.raise k).params = s.params := rfl
@[simp] theorem State.raise_channels (s : State) (k : ModelFault) : (s.raise k).channels = s.channels := rfl
@[simp] theorem State.raise_s2Shift (s : State) (k : ModelFault) : (s.raise k).s2Shift = s.s2Shift := rfl
@[simp] theorem State.raise_decim (s : State) (k : ModelFault) : (s.raise k).decim = s.decim := rfl
@[simp] theorem State.raise_ntaps (s : State) (k : ModelFault) : (s.raise k).ntaps = s.ntaps := rfl
@[simp] theorem State.raise_bufBase (s : State) (k : ModelFault) : (s.raise k).bufBase = s.bufBase := rfl
@[simp] theorem State.raise_bufWords (s : State) (k : ModelFault) : (s.raise k).bufWords = s.bufWords := rfl
@[simp] theorem State.raise_s1Coef (s : State) (k : ModelFault) : (s.raise k).s1Coef = s.s1Coef := rfl
@[simp] theorem State.raise_s2Coef (s : State) (k : ModelFault) : (s.raise k).s2Coef = s.s2Coef := rfl
@[simp] theorem State.raise_runState (s : State) (k : ModelFault) : (s.raise k).runState = s.runState := rfl
@[simp] theorem State.raise_err (s : State) (k : ModelFault) : (s.raise k).err = s.err := rfl
@[simp] theorem State.raise_active (s : State) (k : ModelFault) : (s.raise k).active = s.active := rfl
@[simp] theorem State.raise_count (s : State) (k : ModelFault) : (s.raise k).count = s.count := rfl
@[simp] theorem State.raise_slotFull (s : State) (k : ModelFault) : (s.raise k).slotFull = s.slotFull := rfl
@[simp] theorem State.raise_slotAddr (s : State) (k : ModelFault) : (s.raise k).slotAddr = s.slotAddr := rfl
@[simp] theorem State.raise_cstate (s : State) (k : ModelFault) : (s.raise k).cstate = s.cstate := rfl
@[simp] theorem State.raise_ch (s : State) (k : ModelFault) : (s.raise k).ch = s.ch := rfl
@[simp] theorem State.raise_wix (s : State) (k : ModelFault) : (s.raise k).wix = s.wix := rfl
@[simp] theorem State.raise_curValid (s : State) (k : ModelFault) : (s.raise k).curValid = s.curValid := rfl
@[simp] theorem State.raise_cur (s : State) (k : ModelFault) : (s.raise k).cur = s.cur := rfl
@[simp] theorem State.raise_chan0 (s : State) (k : ModelFault) : (s.raise k).chan0 = s.chan0 := rfl
@[simp] theorem State.raise_chan1 (s : State) (k : ModelFault) : (s.raise k).chan1 = s.chan1 := rfl
@[simp] theorem State.raise_bufmem (s : State) (k : ModelFault) : (s.raise k).bufmem = s.bufmem := rfl
@[simp] theorem State.raise_faulted (s : State) (k : ModelFault) : (s.raise k).faulted = some k := rfl
@[simp] theorem State.raise_history (s : State) (k : ModelFault) : (s.raise k).history = s.history := rfl
@[simp] theorem State.raise_stimulus (s : State) (k : ModelFault) : (s.raise k).stimulus = s.stimulus := rfl
@[simp] theorem State.raise_hostReads (s : State) (k : ModelFault) : (s.raise k).hostReads = s.hostReads := rfl
@[simp] theorem State.raise_draws (s : State) (k : ModelFault) : (s.raise k).draws = s.draws := rfl
@[simp] theorem State.raise_numChannels (s : State) (k : ModelFault) : (s.raise k).numChannels = s.numChannels := rfl
@[simp] theorem State.raise_decimation (s : State) (k : ModelFault) : (s.raise k).decimation = s.decimation := rfl
@[simp] theorem State.raise_regionLen (s : State) (k : ModelFault) : (s.raise k).regionLen = s.regionLen := rfl
@[simp] theorem State.raise_reqSize (s : State) (k : ModelFault) : (s.raise k).reqSize = s.reqSize := rfl
@[simp] theorem State.raise_regionBase (s : State) (k : ModelFault) (z : BitVec 1) : (s.raise k).regionBase z = s.regionBase z := rfl
@[simp] theorem State.raise_histBase (s : State) (k : ModelFault) (z : Nat) : (s.raise k).histBase z = s.histBase z := rfl

/-! ### `State.consume` -/

@[simp] theorem State.consume_params (s : State) (i : Instr) : (s.consume i).params = s.params := rfl
@[simp] theorem State.consume_channels (s : State) (i : Instr) : (s.consume i).channels = s.channels := rfl
@[simp] theorem State.consume_s2Shift (s : State) (i : Instr) : (s.consume i).s2Shift = s.s2Shift := rfl
@[simp] theorem State.consume_decim (s : State) (i : Instr) : (s.consume i).decim = s.decim := rfl
@[simp] theorem State.consume_ntaps (s : State) (i : Instr) : (s.consume i).ntaps = s.ntaps := rfl
@[simp] theorem State.consume_bufBase (s : State) (i : Instr) : (s.consume i).bufBase = s.bufBase := rfl
@[simp] theorem State.consume_bufWords (s : State) (i : Instr) : (s.consume i).bufWords = s.bufWords := rfl
@[simp] theorem State.consume_s1Coef (s : State) (i : Instr) : (s.consume i).s1Coef = s.s1Coef := rfl
@[simp] theorem State.consume_s2Coef (s : State) (i : Instr) : (s.consume i).s2Coef = s.s2Coef := rfl
@[simp] theorem State.consume_runState (s : State) (i : Instr) : (s.consume i).runState = s.runState := rfl
@[simp] theorem State.consume_err (s : State) (i : Instr) : (s.consume i).err = s.err := rfl
@[simp] theorem State.consume_active (s : State) (i : Instr) : (s.consume i).active = s.active := rfl
@[simp] theorem State.consume_count (s : State) (i : Instr) : (s.consume i).count = s.count := rfl
@[simp] theorem State.consume_slotFull (s : State) (i : Instr) : (s.consume i).slotFull = s.slotFull := rfl
@[simp] theorem State.consume_slotAddr (s : State) (i : Instr) : (s.consume i).slotAddr = s.slotAddr := rfl
@[simp] theorem State.consume_cstate (s : State) (i : Instr) : (s.consume i).cstate = s.cstate := rfl
@[simp] theorem State.consume_ch (s : State) (i : Instr) : (s.consume i).ch = s.ch := rfl
@[simp] theorem State.consume_wix (s : State) (i : Instr) : (s.consume i).wix = s.wix := rfl
@[simp] theorem State.consume_curValid (s : State) (i : Instr) : (s.consume i).curValid = s.curValid := rfl
@[simp] theorem State.consume_cur (s : State) (i : Instr) : (s.consume i).cur = s.cur := rfl
@[simp] theorem State.consume_chan0 (s : State) (i : Instr) : (s.consume i).chan0 = s.chan0 := rfl
@[simp] theorem State.consume_chan1 (s : State) (i : Instr) : (s.consume i).chan1 = s.chan1 := rfl
@[simp] theorem State.consume_bufmem (s : State) (i : Instr) : (s.consume i).bufmem = s.bufmem := rfl
@[simp] theorem State.consume_faulted (s : State) (i : Instr) : (s.consume i).faulted = s.faulted := rfl
@[simp] theorem State.consume_history (s : State) (i : Instr) : (s.consume i).history = s.history := rfl
@[simp] theorem State.consume_stimulus (s : State) (i : Instr) : (s.consume i).stimulus = s.stimulus.drop i.length := rfl
@[simp] theorem State.consume_hostReads (s : State) (i : Instr) : (s.consume i).hostReads = s.hostReads := rfl
@[simp] theorem State.consume_draws (s : State) (i : Instr) : (s.consume i).draws = s.draws := rfl
@[simp] theorem State.consume_numChannels (s : State) (i : Instr) : (s.consume i).numChannels = s.numChannels := rfl
@[simp] theorem State.consume_decimation (s : State) (i : Instr) : (s.consume i).decimation = s.decimation := rfl
@[simp] theorem State.consume_regionLen (s : State) (i : Instr) : (s.consume i).regionLen = s.regionLen := rfl
@[simp] theorem State.consume_reqSize (s : State) (i : Instr) : (s.consume i).reqSize = s.reqSize := rfl
@[simp] theorem State.consume_regionBase (s : State) (i : Instr) (z : BitVec 1) : (s.consume i).regionBase z = s.regionBase z := rfl
@[simp] theorem State.consume_histBase (s : State) (i : Instr) (z : Nat) : (s.consume i).histBase z = s.histBase z := rfl

/-! ### `State.load` -/

@[simp] theorem State.load_params (s : State) (ws : List Word) : (s.load ws).params = s.params := rfl
@[simp] theorem State.load_channels (s : State) (ws : List Word) : (s.load ws).channels = s.channels := rfl
@[simp] theorem State.load_s2Shift (s : State) (ws : List Word) : (s.load ws).s2Shift = s.s2Shift := rfl
@[simp] theorem State.load_decim (s : State) (ws : List Word) : (s.load ws).decim = s.decim := rfl
@[simp] theorem State.load_ntaps (s : State) (ws : List Word) : (s.load ws).ntaps = s.ntaps := rfl
@[simp] theorem State.load_bufBase (s : State) (ws : List Word) : (s.load ws).bufBase = s.bufBase := rfl
@[simp] theorem State.load_bufWords (s : State) (ws : List Word) : (s.load ws).bufWords = s.bufWords := rfl
@[simp] theorem State.load_s1Coef (s : State) (ws : List Word) : (s.load ws).s1Coef = s.s1Coef := rfl
@[simp] theorem State.load_s2Coef (s : State) (ws : List Word) : (s.load ws).s2Coef = s.s2Coef := rfl
@[simp] theorem State.load_runState (s : State) (ws : List Word) : (s.load ws).runState = s.runState := rfl
@[simp] theorem State.load_err (s : State) (ws : List Word) : (s.load ws).err = s.err := rfl
@[simp] theorem State.load_active (s : State) (ws : List Word) : (s.load ws).active = s.active := rfl
@[simp] theorem State.load_count (s : State) (ws : List Word) : (s.load ws).count = s.count := rfl
@[simp] theorem State.load_slotFull (s : State) (ws : List Word) : (s.load ws).slotFull = s.slotFull := rfl
@[simp] theorem State.load_slotAddr (s : State) (ws : List Word) : (s.load ws).slotAddr = s.slotAddr := rfl
@[simp] theorem State.load_cstate (s : State) (ws : List Word) : (s.load ws).cstate = s.cstate := rfl
@[simp] theorem State.load_ch (s : State) (ws : List Word) : (s.load ws).ch = s.ch := rfl
@[simp] theorem State.load_wix (s : State) (ws : List Word) : (s.load ws).wix = s.wix := rfl
@[simp] theorem State.load_curValid (s : State) (ws : List Word) : (s.load ws).curValid = s.curValid := rfl
@[simp] theorem State.load_cur (s : State) (ws : List Word) : (s.load ws).cur = s.cur := rfl
@[simp] theorem State.load_chan0 (s : State) (ws : List Word) : (s.load ws).chan0 = s.chan0 := rfl
@[simp] theorem State.load_chan1 (s : State) (ws : List Word) : (s.load ws).chan1 = s.chan1 := rfl
@[simp] theorem State.load_bufmem (s : State) (ws : List Word) : (s.load ws).bufmem = s.bufmem := rfl
@[simp] theorem State.load_faulted (s : State) (ws : List Word) : (s.load ws).faulted = s.faulted := rfl
@[simp] theorem State.load_history (s : State) (ws : List Word) : (s.load ws).history = s.history := rfl
@[simp] theorem State.load_stimulus (s : State) (ws : List Word) : (s.load ws).stimulus = ws := rfl
@[simp] theorem State.load_hostReads (s : State) (ws : List Word) : (s.load ws).hostReads = s.hostReads := rfl
@[simp] theorem State.load_draws (s : State) (ws : List Word) : (s.load ws).draws = s.draws := rfl
@[simp] theorem State.load_numChannels (s : State) (ws : List Word) : (s.load ws).numChannels = s.numChannels := rfl
@[simp] theorem State.load_decimation (s : State) (ws : List Word) : (s.load ws).decimation = s.decimation := rfl
@[simp] theorem State.load_regionLen (s : State) (ws : List Word) : (s.load ws).regionLen = s.regionLen := rfl
@[simp] theorem State.load_reqSize (s : State) (ws : List Word) : (s.load ws).reqSize = s.reqSize := rfl
@[simp] theorem State.load_regionBase (s : State) (ws : List Word) (z : BitVec 1) : (s.load ws).regionBase z = s.regionBase z := rfl
@[simp] theorem State.load_histBase (s : State) (ws : List Word) (z : Nat) : (s.load ws).histBase z = s.histBase z := rfl

/-! ### `State.giveHost` -/

@[simp] theorem State.giveHost_params (s : State) (v : Word) : (s.giveHost v).params = s.params := rfl
@[simp] theorem State.giveHost_channels (s : State) (v : Word) : (s.giveHost v).channels = s.channels := rfl
@[simp] theorem State.giveHost_s2Shift (s : State) (v : Word) : (s.giveHost v).s2Shift = s.s2Shift := rfl
@[simp] theorem State.giveHost_decim (s : State) (v : Word) : (s.giveHost v).decim = s.decim := rfl
@[simp] theorem State.giveHost_ntaps (s : State) (v : Word) : (s.giveHost v).ntaps = s.ntaps := rfl
@[simp] theorem State.giveHost_bufBase (s : State) (v : Word) : (s.giveHost v).bufBase = s.bufBase := rfl
@[simp] theorem State.giveHost_bufWords (s : State) (v : Word) : (s.giveHost v).bufWords = s.bufWords := rfl
@[simp] theorem State.giveHost_s1Coef (s : State) (v : Word) : (s.giveHost v).s1Coef = s.s1Coef := rfl
@[simp] theorem State.giveHost_s2Coef (s : State) (v : Word) : (s.giveHost v).s2Coef = s.s2Coef := rfl
@[simp] theorem State.giveHost_runState (s : State) (v : Word) : (s.giveHost v).runState = s.runState := rfl
@[simp] theorem State.giveHost_err (s : State) (v : Word) : (s.giveHost v).err = s.err := rfl
@[simp] theorem State.giveHost_active (s : State) (v : Word) : (s.giveHost v).active = s.active := rfl
@[simp] theorem State.giveHost_count (s : State) (v : Word) : (s.giveHost v).count = s.count := rfl
@[simp] theorem State.giveHost_slotFull (s : State) (v : Word) : (s.giveHost v).slotFull = s.slotFull := rfl
@[simp] theorem State.giveHost_slotAddr (s : State) (v : Word) : (s.giveHost v).slotAddr = s.slotAddr := rfl
@[simp] theorem State.giveHost_cstate (s : State) (v : Word) : (s.giveHost v).cstate = s.cstate := rfl
@[simp] theorem State.giveHost_ch (s : State) (v : Word) : (s.giveHost v).ch = s.ch := rfl
@[simp] theorem State.giveHost_wix (s : State) (v : Word) : (s.giveHost v).wix = s.wix := rfl
@[simp] theorem State.giveHost_curValid (s : State) (v : Word) : (s.giveHost v).curValid = s.curValid := rfl
@[simp] theorem State.giveHost_cur (s : State) (v : Word) : (s.giveHost v).cur = s.cur := rfl
@[simp] theorem State.giveHost_chan0 (s : State) (v : Word) : (s.giveHost v).chan0 = s.chan0 := rfl
@[simp] theorem State.giveHost_chan1 (s : State) (v : Word) : (s.giveHost v).chan1 = s.chan1 := rfl
@[simp] theorem State.giveHost_bufmem (s : State) (v : Word) : (s.giveHost v).bufmem = s.bufmem := rfl
@[simp] theorem State.giveHost_faulted (s : State) (v : Word) : (s.giveHost v).faulted = s.faulted := rfl
@[simp] theorem State.giveHost_history (s : State) (v : Word) : (s.giveHost v).history = s.history := rfl
@[simp] theorem State.giveHost_stimulus (s : State) (v : Word) : (s.giveHost v).stimulus = s.stimulus := rfl
@[simp] theorem State.giveHost_hostReads (s : State) (v : Word) : (s.giveHost v).hostReads = s.hostReads ++ [v] := rfl
@[simp] theorem State.giveHost_draws (s : State) (v : Word) : (s.giveHost v).draws = s.draws := rfl
@[simp] theorem State.giveHost_numChannels (s : State) (v : Word) : (s.giveHost v).numChannels = s.numChannels := rfl
@[simp] theorem State.giveHost_decimation (s : State) (v : Word) : (s.giveHost v).decimation = s.decimation := rfl
@[simp] theorem State.giveHost_regionLen (s : State) (v : Word) : (s.giveHost v).regionLen = s.regionLen := rfl
@[simp] theorem State.giveHost_reqSize (s : State) (v : Word) : (s.giveHost v).reqSize = s.reqSize := rfl
@[simp] theorem State.giveHost_regionBase (s : State) (v : Word) (z : BitVec 1) : (s.giveHost v).regionBase z = s.regionBase z := rfl
@[simp] theorem State.giveHost_histBase (s : State) (v : Word) (z : Nat) : (s.giveHost v).histBase z = s.histBase z := rfl

/-! ### `State.setChan` -/

@[simp] theorem State.setChan_params (s : State) (c : BitVec 1) (x : Channel) : (s.setChan c x).params = s.params := rfl
@[simp] theorem State.setChan_channels (s : State) (c : BitVec 1) (x : Channel) : (s.setChan c x).channels = s.channels := rfl
@[simp] theorem State.setChan_s2Shift (s : State) (c : BitVec 1) (x : Channel) : (s.setChan c x).s2Shift = s.s2Shift := rfl
@[simp] theorem State.setChan_decim (s : State) (c : BitVec 1) (x : Channel) : (s.setChan c x).decim = s.decim := rfl
@[simp] theorem State.setChan_ntaps (s : State) (c : BitVec 1) (x : Channel) : (s.setChan c x).ntaps = s.ntaps := rfl
@[simp] theorem State.setChan_bufBase (s : State) (c : BitVec 1) (x : Channel) : (s.setChan c x).bufBase = s.bufBase := rfl
@[simp] theorem State.setChan_bufWords (s : State) (c : BitVec 1) (x : Channel) : (s.setChan c x).bufWords = s.bufWords := rfl
@[simp] theorem State.setChan_s1Coef (s : State) (c : BitVec 1) (x : Channel) : (s.setChan c x).s1Coef = s.s1Coef := rfl
@[simp] theorem State.setChan_s2Coef (s : State) (c : BitVec 1) (x : Channel) : (s.setChan c x).s2Coef = s.s2Coef := rfl
@[simp] theorem State.setChan_runState (s : State) (c : BitVec 1) (x : Channel) : (s.setChan c x).runState = s.runState := rfl
@[simp] theorem State.setChan_err (s : State) (c : BitVec 1) (x : Channel) : (s.setChan c x).err = s.err := rfl
@[simp] theorem State.setChan_active (s : State) (c : BitVec 1) (x : Channel) : (s.setChan c x).active = s.active := rfl
@[simp] theorem State.setChan_count (s : State) (c : BitVec 1) (x : Channel) : (s.setChan c x).count = s.count := rfl
@[simp] theorem State.setChan_slotFull (s : State) (c : BitVec 1) (x : Channel) : (s.setChan c x).slotFull = s.slotFull := rfl
@[simp] theorem State.setChan_slotAddr (s : State) (c : BitVec 1) (x : Channel) : (s.setChan c x).slotAddr = s.slotAddr := rfl
@[simp] theorem State.setChan_cstate (s : State) (c : BitVec 1) (x : Channel) : (s.setChan c x).cstate = s.cstate := rfl
@[simp] theorem State.setChan_ch (s : State) (c : BitVec 1) (x : Channel) : (s.setChan c x).ch = s.ch := rfl
@[simp] theorem State.setChan_wix (s : State) (c : BitVec 1) (x : Channel) : (s.setChan c x).wix = s.wix := rfl
@[simp] theorem State.setChan_curValid (s : State) (c : BitVec 1) (x : Channel) : (s.setChan c x).curValid = s.curValid := rfl
@[simp] theorem State.setChan_cur (s : State) (c : BitVec 1) (x : Channel) : (s.setChan c x).cur = s.cur := rfl
@[simp] theorem State.setChan_chan0 (s : State) (c : BitVec 1) (x : Channel) : (s.setChan c x).chan0 = if c = 0#1 then x else s.chan0 := rfl
@[simp] theorem State.setChan_chan1 (s : State) (c : BitVec 1) (x : Channel) : (s.setChan c x).chan1 = if c = 0#1 then s.chan1 else x := rfl
@[simp] theorem State.setChan_bufmem (s : State) (c : BitVec 1) (x : Channel) : (s.setChan c x).bufmem = s.bufmem := rfl
@[simp] theorem State.setChan_faulted (s : State) (c : BitVec 1) (x : Channel) : (s.setChan c x).faulted = s.faulted := rfl
@[simp] theorem State.setChan_history (s : State) (c : BitVec 1) (x : Channel) : (s.setChan c x).history = s.history := rfl
@[simp] theorem State.setChan_stimulus (s : State) (c : BitVec 1) (x : Channel) : (s.setChan c x).stimulus = s.stimulus := rfl
@[simp] theorem State.setChan_hostReads (s : State) (c : BitVec 1) (x : Channel) : (s.setChan c x).hostReads = s.hostReads := rfl
@[simp] theorem State.setChan_draws (s : State) (c : BitVec 1) (x : Channel) : (s.setChan c x).draws = s.draws := rfl
@[simp] theorem State.setChan_numChannels (s : State) (c : BitVec 1) (x : Channel) : (s.setChan c x).numChannels = s.numChannels := rfl
@[simp] theorem State.setChan_decimation (s : State) (c : BitVec 1) (x : Channel) : (s.setChan c x).decimation = s.decimation := rfl
@[simp] theorem State.setChan_regionLen (s : State) (c : BitVec 1) (x : Channel) : (s.setChan c x).regionLen = s.regionLen := rfl
@[simp] theorem State.setChan_reqSize (s : State) (c : BitVec 1) (x : Channel) : (s.setChan c x).reqSize = s.reqSize := rfl
@[simp] theorem State.setChan_regionBase (s : State) (c : BitVec 1) (x : Channel) (z : BitVec 1) : (s.setChan c x).regionBase z = s.regionBase z := rfl
@[simp] theorem State.setChan_histBase (s : State) (c : BitVec 1) (x : Channel) (z : Nat) : (s.setChan c x).histBase z = s.histBase z := rfl

/-! ### `State.setupFail` -/

@[simp] theorem State.setupFail_params (s : State) (e : SetupError) : (s.setupFail e).params = s.params := rfl
@[simp] theorem State.setupFail_channels (s : State) (e : SetupError) : (s.setupFail e).channels = s.channels := rfl
@[simp] theorem State.setupFail_s2Shift (s : State) (e : SetupError) : (s.setupFail e).s2Shift = s.s2Shift := rfl
@[simp] theorem State.setupFail_decim (s : State) (e : SetupError) : (s.setupFail e).decim = s.decim := rfl
@[simp] theorem State.setupFail_ntaps (s : State) (e : SetupError) : (s.setupFail e).ntaps = s.ntaps := rfl
@[simp] theorem State.setupFail_bufBase (s : State) (e : SetupError) : (s.setupFail e).bufBase = s.bufBase := rfl
@[simp] theorem State.setupFail_bufWords (s : State) (e : SetupError) : (s.setupFail e).bufWords = s.bufWords := rfl
@[simp] theorem State.setupFail_s1Coef (s : State) (e : SetupError) : (s.setupFail e).s1Coef = s.s1Coef := rfl
@[simp] theorem State.setupFail_s2Coef (s : State) (e : SetupError) : (s.setupFail e).s2Coef = s.s2Coef := rfl
@[simp] theorem State.setupFail_runState (s : State) (e : SetupError) : (s.setupFail e).runState = .fault := rfl
@[simp] theorem State.setupFail_err (s : State) (e : SetupError) : (s.setupFail e).err = e := rfl
@[simp] theorem State.setupFail_active (s : State) (e : SetupError) : (s.setupFail e).active = s.active := rfl
@[simp] theorem State.setupFail_count (s : State) (e : SetupError) : (s.setupFail e).count = s.count := rfl
@[simp] theorem State.setupFail_slotFull (s : State) (e : SetupError) : (s.setupFail e).slotFull = s.slotFull := rfl
@[simp] theorem State.setupFail_slotAddr (s : State) (e : SetupError) : (s.setupFail e).slotAddr = s.slotAddr := rfl
@[simp] theorem State.setupFail_cstate (s : State) (e : SetupError) : (s.setupFail e).cstate = s.cstate := rfl
@[simp] theorem State.setupFail_ch (s : State) (e : SetupError) : (s.setupFail e).ch = s.ch := rfl
@[simp] theorem State.setupFail_wix (s : State) (e : SetupError) : (s.setupFail e).wix = s.wix := rfl
@[simp] theorem State.setupFail_curValid (s : State) (e : SetupError) : (s.setupFail e).curValid = s.curValid := rfl
@[simp] theorem State.setupFail_cur (s : State) (e : SetupError) : (s.setupFail e).cur = s.cur := rfl
@[simp] theorem State.setupFail_chan0 (s : State) (e : SetupError) : (s.setupFail e).chan0 = s.chan0 := rfl
@[simp] theorem State.setupFail_chan1 (s : State) (e : SetupError) : (s.setupFail e).chan1 = s.chan1 := rfl
@[simp] theorem State.setupFail_bufmem (s : State) (e : SetupError) : (s.setupFail e).bufmem = s.bufmem := rfl
@[simp] theorem State.setupFail_faulted (s : State) (e : SetupError) : (s.setupFail e).faulted = s.faulted := rfl
@[simp] theorem State.setupFail_history (s : State) (e : SetupError) : (s.setupFail e).history = s.history := rfl
@[simp] theorem State.setupFail_stimulus (s : State) (e : SetupError) : (s.setupFail e).stimulus = s.stimulus := rfl
@[simp] theorem State.setupFail_hostReads (s : State) (e : SetupError) : (s.setupFail e).hostReads = s.hostReads := rfl
@[simp] theorem State.setupFail_draws (s : State) (e : SetupError) : (s.setupFail e).draws = s.draws := rfl
@[simp] theorem State.setupFail_numChannels (s : State) (e : SetupError) : (s.setupFail e).numChannels = s.numChannels := rfl
@[simp] theorem State.setupFail_decimation (s : State) (e : SetupError) : (s.setupFail e).decimation = s.decimation := rfl
@[simp] theorem State.setupFail_regionLen (s : State) (e : SetupError) : (s.setupFail e).regionLen = s.regionLen := rfl
@[simp] theorem State.setupFail_reqSize (s : State) (e : SetupError) : (s.setupFail e).reqSize = s.reqSize := rfl
@[simp] theorem State.setupFail_regionBase (s : State) (e : SetupError) (z : BitVec 1) : (s.setupFail e).regionBase z = s.regionBase z := rfl
@[simp] theorem State.setupFail_histBase (s : State) (e : SetupError) (z : Nat) : (s.setupFail e).histBase z = s.histBase z := rfl

/-! ### `State.setupRegs` -/

@[simp] theorem State.setupRegs_params (s : State) : (s.setupRegs).params = s.params := rfl
@[simp] theorem State.setupRegs_channels (s : State) : (s.setupRegs).channels = s.channels := rfl
@[simp] theorem State.setupRegs_s2Shift (s : State) : (s.setupRegs).s2Shift = s.s2Shift := rfl
@[simp] theorem State.setupRegs_decim (s : State) : (s.setupRegs).decim = s.decim := rfl
@[simp] theorem State.setupRegs_ntaps (s : State) : (s.setupRegs).ntaps = s.ntaps := rfl
@[simp] theorem State.setupRegs_bufBase (s : State) : (s.setupRegs).bufBase = s.bufBase := rfl
@[simp] theorem State.setupRegs_bufWords (s : State) : (s.setupRegs).bufWords = s.bufWords := rfl
@[simp] theorem State.setupRegs_s1Coef (s : State) : (s.setupRegs).s1Coef = s.s1Coef := rfl
@[simp] theorem State.setupRegs_s2Coef (s : State) : (s.setupRegs).s2Coef = s.s2Coef := rfl
@[simp] theorem State.setupRegs_runState (s : State) : (s.setupRegs).runState = .running := rfl
@[simp] theorem State.setupRegs_err (s : State) : (s.setupRegs).err = s.err := rfl
@[simp] theorem State.setupRegs_active (s : State) : (s.setupRegs).active = 0#1 := rfl
@[simp] theorem State.setupRegs_count (s : State) : (s.setupRegs).count = BitVec.ofNat 18 s.regionLen := rfl
@[simp] theorem State.setupRegs_slotFull (s : State) : (s.setupRegs).slotFull = false := rfl
@[simp] theorem State.setupRegs_slotAddr (s : State) : (s.setupRegs).slotAddr = 0#32 := rfl
@[simp] theorem State.setupRegs_cstate (s : State) : (s.setupRegs).cstate = .await := rfl
@[simp] theorem State.setupRegs_ch (s : State) : (s.setupRegs).ch = 0#1 := rfl
@[simp] theorem State.setupRegs_wix (s : State) : (s.setupRegs).wix = 0#16 := rfl
@[simp] theorem State.setupRegs_curValid (s : State) : (s.setupRegs).curValid = false := rfl
@[simp] theorem State.setupRegs_cur (s : State) : (s.setupRegs).cur = 0#32 := rfl
@[simp] theorem State.setupRegs_chan0 (s : State) : (s.setupRegs).chan0 = Channel.zero s.params := rfl
@[simp] theorem State.setupRegs_chan1 (s : State) : (s.setupRegs).chan1 = Channel.zero s.params := rfl
@[simp] theorem State.setupRegs_bufmem (s : State) : (s.setupRegs).bufmem = s.bufmem := rfl
@[simp] theorem State.setupRegs_faulted (s : State) : (s.setupRegs).faulted = s.faulted := rfl
@[simp] theorem State.setupRegs_history (s : State) : (s.setupRegs).history = s.history := rfl
@[simp] theorem State.setupRegs_stimulus (s : State) : (s.setupRegs).stimulus = s.stimulus := rfl
@[simp] theorem State.setupRegs_hostReads (s : State) : (s.setupRegs).hostReads = s.hostReads := rfl
@[simp] theorem State.setupRegs_draws (s : State) : (s.setupRegs).draws = s.draws := rfl
@[simp] theorem State.setupRegs_numChannels (s : State) : (s.setupRegs).numChannels = s.numChannels := rfl
@[simp] theorem State.setupRegs_decimation (s : State) : (s.setupRegs).decimation = s.decimation := rfl
@[simp] theorem State.setupRegs_regionLen (s : State) : (s.setupRegs).regionLen = s.regionLen := rfl
@[simp] theorem State.setupRegs_reqSize (s : State) : (s.setupRegs).reqSize = s.reqSize := rfl
@[simp] theorem State.setupRegs_regionBase (s : State) (z : BitVec 1) : (s.setupRegs).regionBase z = s.regionBase z := rfl
@[simp] theorem State.setupRegs_histBase (s : State) (z : Nat) : (s.setupRegs).histBase z = s.histBase z := rfl

/-! ### `State.publish` -/

@[simp] theorem State.publish_params (s : State) (r : BitVec 1) : (s.publish r).params = s.params := rfl
@[simp] theorem State.publish_channels (s : State) (r : BitVec 1) : (s.publish r).channels = s.channels := rfl
@[simp] theorem State.publish_s2Shift (s : State) (r : BitVec 1) : (s.publish r).s2Shift = s.s2Shift := rfl
@[simp] theorem State.publish_decim (s : State) (r : BitVec 1) : (s.publish r).decim = s.decim := rfl
@[simp] theorem State.publish_ntaps (s : State) (r : BitVec 1) : (s.publish r).ntaps = s.ntaps := rfl
@[simp] theorem State.publish_bufBase (s : State) (r : BitVec 1) : (s.publish r).bufBase = s.bufBase := rfl
@[simp] theorem State.publish_bufWords (s : State) (r : BitVec 1) : (s.publish r).bufWords = s.bufWords := rfl
@[simp] theorem State.publish_s1Coef (s : State) (r : BitVec 1) : (s.publish r).s1Coef = s.s1Coef := rfl
@[simp] theorem State.publish_s2Coef (s : State) (r : BitVec 1) : (s.publish r).s2Coef = s.s2Coef := rfl
@[simp] theorem State.publish_runState (s : State) (r : BitVec 1) : (s.publish r).runState = s.runState := rfl
@[simp] theorem State.publish_err (s : State) (r : BitVec 1) : (s.publish r).err = s.err := rfl
@[simp] theorem State.publish_active (s : State) (r : BitVec 1) : (s.publish r).active = s.active := rfl
@[simp] theorem State.publish_count (s : State) (r : BitVec 1) : (s.publish r).count = s.count := rfl
@[simp] theorem State.publish_slotFull (s : State) (r : BitVec 1) : (s.publish r).slotFull = true := rfl
@[simp] theorem State.publish_slotAddr (s : State) (r : BitVec 1) : (s.publish r).slotAddr = BitVec.ofNat 32 (s.regionBase r) := rfl
@[simp] theorem State.publish_cstate (s : State) (r : BitVec 1) : (s.publish r).cstate = s.cstate := rfl
@[simp] theorem State.publish_ch (s : State) (r : BitVec 1) : (s.publish r).ch = s.ch := rfl
@[simp] theorem State.publish_wix (s : State) (r : BitVec 1) : (s.publish r).wix = s.wix := rfl
@[simp] theorem State.publish_curValid (s : State) (r : BitVec 1) : (s.publish r).curValid = s.curValid := rfl
@[simp] theorem State.publish_cur (s : State) (r : BitVec 1) : (s.publish r).cur = s.cur := rfl
@[simp] theorem State.publish_chan0 (s : State) (r : BitVec 1) : (s.publish r).chan0 = s.chan0 := rfl
@[simp] theorem State.publish_chan1 (s : State) (r : BitVec 1) : (s.publish r).chan1 = s.chan1 := rfl
@[simp] theorem State.publish_bufmem (s : State) (r : BitVec 1) : (s.publish r).bufmem = s.bufmem := rfl
@[simp] theorem State.publish_faulted (s : State) (r : BitVec 1) : (s.publish r).faulted = s.faulted := rfl
@[simp] theorem State.publish_history (s : State) (r : BitVec 1) : (s.publish r).history = s.history ++ [.publish (BitVec.ofNat 32 (s.regionBase r))] := rfl
@[simp] theorem State.publish_stimulus (s : State) (r : BitVec 1) : (s.publish r).stimulus = s.stimulus := rfl
@[simp] theorem State.publish_hostReads (s : State) (r : BitVec 1) : (s.publish r).hostReads = s.hostReads := rfl
@[simp] theorem State.publish_draws (s : State) (r : BitVec 1) : (s.publish r).draws = s.draws := rfl
@[simp] theorem State.publish_numChannels (s : State) (r : BitVec 1) : (s.publish r).numChannels = s.numChannels := rfl
@[simp] theorem State.publish_decimation (s : State) (r : BitVec 1) : (s.publish r).decimation = s.decimation := rfl
@[simp] theorem State.publish_regionLen (s : State) (r : BitVec 1) : (s.publish r).regionLen = s.regionLen := rfl
@[simp] theorem State.publish_reqSize (s : State) (r : BitVec 1) : (s.publish r).reqSize = s.reqSize := rfl
@[simp] theorem State.publish_regionBase (s : State) (r : BitVec 1) (z : BitVec 1) : (s.publish r).regionBase z = s.regionBase z := rfl
@[simp] theorem State.publish_histBase (s : State) (r : BitVec 1) (z : Nat) : (s.publish r).histBase z = s.histBase z := rfl

/-! ### `State.swapRegions` -/

@[simp] theorem State.swapRegions_params (s : State) : (s.swapRegions).params = s.params := rfl
@[simp] theorem State.swapRegions_channels (s : State) : (s.swapRegions).channels = s.channels := rfl
@[simp] theorem State.swapRegions_s2Shift (s : State) : (s.swapRegions).s2Shift = s.s2Shift := rfl
@[simp] theorem State.swapRegions_decim (s : State) : (s.swapRegions).decim = s.decim := rfl
@[simp] theorem State.swapRegions_ntaps (s : State) : (s.swapRegions).ntaps = s.ntaps := rfl
@[simp] theorem State.swapRegions_bufBase (s : State) : (s.swapRegions).bufBase = s.bufBase := rfl
@[simp] theorem State.swapRegions_bufWords (s : State) : (s.swapRegions).bufWords = s.bufWords := rfl
@[simp] theorem State.swapRegions_s1Coef (s : State) : (s.swapRegions).s1Coef = s.s1Coef := rfl
@[simp] theorem State.swapRegions_s2Coef (s : State) : (s.swapRegions).s2Coef = s.s2Coef := rfl
@[simp] theorem State.swapRegions_runState (s : State) : (s.swapRegions).runState = s.runState := rfl
@[simp] theorem State.swapRegions_err (s : State) : (s.swapRegions).err = s.err := rfl
@[simp] theorem State.swapRegions_active (s : State) : (s.swapRegions).active = 1#1 - s.active := rfl
@[simp] theorem State.swapRegions_count (s : State) : (s.swapRegions).count = BitVec.ofNat 18 s.regionLen := rfl
@[simp] theorem State.swapRegions_slotFull (s : State) : (s.swapRegions).slotFull = s.slotFull := rfl
@[simp] theorem State.swapRegions_slotAddr (s : State) : (s.swapRegions).slotAddr = s.slotAddr := rfl
@[simp] theorem State.swapRegions_cstate (s : State) : (s.swapRegions).cstate = s.cstate := rfl
@[simp] theorem State.swapRegions_ch (s : State) : (s.swapRegions).ch = s.ch := rfl
@[simp] theorem State.swapRegions_wix (s : State) : (s.swapRegions).wix = s.wix := rfl
@[simp] theorem State.swapRegions_curValid (s : State) : (s.swapRegions).curValid = s.curValid := rfl
@[simp] theorem State.swapRegions_cur (s : State) : (s.swapRegions).cur = s.cur := rfl
@[simp] theorem State.swapRegions_chan0 (s : State) : (s.swapRegions).chan0 = s.chan0 := rfl
@[simp] theorem State.swapRegions_chan1 (s : State) : (s.swapRegions).chan1 = s.chan1 := rfl
@[simp] theorem State.swapRegions_bufmem (s : State) : (s.swapRegions).bufmem = s.bufmem := rfl
@[simp] theorem State.swapRegions_faulted (s : State) : (s.swapRegions).faulted = s.faulted := rfl
@[simp] theorem State.swapRegions_history (s : State) : (s.swapRegions).history = s.history := rfl
@[simp] theorem State.swapRegions_stimulus (s : State) : (s.swapRegions).stimulus = s.stimulus := rfl
@[simp] theorem State.swapRegions_hostReads (s : State) : (s.swapRegions).hostReads = s.hostReads := rfl
@[simp] theorem State.swapRegions_draws (s : State) : (s.swapRegions).draws = s.draws := rfl
@[simp] theorem State.swapRegions_numChannels (s : State) : (s.swapRegions).numChannels = s.numChannels := rfl
@[simp] theorem State.swapRegions_decimation (s : State) : (s.swapRegions).decimation = s.decimation := rfl
@[simp] theorem State.swapRegions_regionLen (s : State) : (s.swapRegions).regionLen = s.regionLen := rfl
@[simp] theorem State.swapRegions_reqSize (s : State) : (s.swapRegions).reqSize = s.reqSize := rfl
@[simp] theorem State.swapRegions_regionBase (s : State) (z : BitVec 1) : (s.swapRegions).regionBase z = s.regionBase z := rfl
@[simp] theorem State.swapRegions_histBase (s : State) (z : Nat) : (s.swapRegions).histBase z = s.histBase z := rfl

/-! ### `State.startFiltering` -/

@[simp] theorem State.startFiltering_params (s : State) : (s.startFiltering).params = s.params := rfl
@[simp] theorem State.startFiltering_channels (s : State) : (s.startFiltering).channels = s.channels := rfl
@[simp] theorem State.startFiltering_s2Shift (s : State) : (s.startFiltering).s2Shift = s.s2Shift := rfl
@[simp] theorem State.startFiltering_decim (s : State) : (s.startFiltering).decim = s.decim := rfl
@[simp] theorem State.startFiltering_ntaps (s : State) : (s.startFiltering).ntaps = s.ntaps := rfl
@[simp] theorem State.startFiltering_bufBase (s : State) : (s.startFiltering).bufBase = s.bufBase := rfl
@[simp] theorem State.startFiltering_bufWords (s : State) : (s.startFiltering).bufWords = s.bufWords := rfl
@[simp] theorem State.startFiltering_s1Coef (s : State) : (s.startFiltering).s1Coef = s.s1Coef := rfl
@[simp] theorem State.startFiltering_s2Coef (s : State) : (s.startFiltering).s2Coef = s.s2Coef := rfl
@[simp] theorem State.startFiltering_runState (s : State) : (s.startFiltering).runState = s.runState := rfl
@[simp] theorem State.startFiltering_err (s : State) : (s.startFiltering).err = s.err := rfl
@[simp] theorem State.startFiltering_active (s : State) : (s.startFiltering).active = s.active := rfl
@[simp] theorem State.startFiltering_count (s : State) : (s.startFiltering).count = s.count := rfl
@[simp] theorem State.startFiltering_slotFull (s : State) : (s.startFiltering).slotFull = s.slotFull := rfl
@[simp] theorem State.startFiltering_slotAddr (s : State) : (s.startFiltering).slotAddr = s.slotAddr := rfl
@[simp] theorem State.startFiltering_cstate (s : State) : (s.startFiltering).cstate = .filt := rfl
@[simp] theorem State.startFiltering_ch (s : State) : (s.startFiltering).ch = 0#1 := rfl
@[simp] theorem State.startFiltering_wix (s : State) : (s.startFiltering).wix = s.decim - 1 := rfl
@[simp] theorem State.startFiltering_curValid (s : State) : (s.startFiltering).curValid = s.curValid := rfl
@[simp] theorem State.startFiltering_cur (s : State) : (s.startFiltering).cur = s.cur := rfl
@[simp] theorem State.startFiltering_chan0 (s : State) : (s.startFiltering).chan0 = s.chan0 := rfl
@[simp] theorem State.startFiltering_chan1 (s : State) : (s.startFiltering).chan1 = s.chan1 := rfl
@[simp] theorem State.startFiltering_bufmem (s : State) : (s.startFiltering).bufmem = s.bufmem := rfl
@[simp] theorem State.startFiltering_faulted (s : State) : (s.startFiltering).faulted = s.faulted := rfl
@[simp] theorem State.startFiltering_history (s : State) : (s.startFiltering).history = s.history := rfl
@[simp] theorem State.startFiltering_stimulus (s : State) : (s.startFiltering).stimulus = s.stimulus := rfl
@[simp] theorem State.startFiltering_hostReads (s : State) : (s.startFiltering).hostReads = s.hostReads := rfl
@[simp] theorem State.startFiltering_draws (s : State) : (s.startFiltering).draws = s.draws := rfl
@[simp] theorem State.startFiltering_numChannels (s : State) : (s.startFiltering).numChannels = s.numChannels := rfl
@[simp] theorem State.startFiltering_decimation (s : State) : (s.startFiltering).decimation = s.decimation := rfl
@[simp] theorem State.startFiltering_regionLen (s : State) : (s.startFiltering).regionLen = s.regionLen := rfl
@[simp] theorem State.startFiltering_reqSize (s : State) : (s.startFiltering).reqSize = s.reqSize := rfl
@[simp] theorem State.startFiltering_regionBase (s : State) (z : BitVec 1) : (s.startFiltering).regionBase z = s.regionBase z := rfl
@[simp] theorem State.startFiltering_histBase (s : State) (z : Nat) : (s.startFiltering).histBase z = s.histBase z := rfl

/-! ### `State.takeBuffer` -/

@[simp] theorem State.takeBuffer_params (s : State) : (s.takeBuffer).params = s.params := rfl
@[simp] theorem State.takeBuffer_channels (s : State) : (s.takeBuffer).channels = s.channels := rfl
@[simp] theorem State.takeBuffer_s2Shift (s : State) : (s.takeBuffer).s2Shift = s.s2Shift := rfl
@[simp] theorem State.takeBuffer_decim (s : State) : (s.takeBuffer).decim = s.decim := rfl
@[simp] theorem State.takeBuffer_ntaps (s : State) : (s.takeBuffer).ntaps = s.ntaps := rfl
@[simp] theorem State.takeBuffer_bufBase (s : State) : (s.takeBuffer).bufBase = s.bufBase := rfl
@[simp] theorem State.takeBuffer_bufWords (s : State) : (s.takeBuffer).bufWords = s.bufWords := rfl
@[simp] theorem State.takeBuffer_s1Coef (s : State) : (s.takeBuffer).s1Coef = s.s1Coef := rfl
@[simp] theorem State.takeBuffer_s2Coef (s : State) : (s.takeBuffer).s2Coef = s.s2Coef := rfl
@[simp] theorem State.takeBuffer_runState (s : State) : (s.takeBuffer).runState = s.runState := rfl
@[simp] theorem State.takeBuffer_err (s : State) : (s.takeBuffer).err = s.err := rfl
@[simp] theorem State.takeBuffer_active (s : State) : (s.takeBuffer).active = s.active := rfl
@[simp] theorem State.takeBuffer_count (s : State) : (s.takeBuffer).count = s.count := rfl
@[simp] theorem State.takeBuffer_slotFull (s : State) : (s.takeBuffer).slotFull = false := rfl
@[simp] theorem State.takeBuffer_slotAddr (s : State) : (s.takeBuffer).slotAddr = s.slotAddr := rfl
@[simp] theorem State.takeBuffer_cstate (s : State) : (s.takeBuffer).cstate = .deint := rfl
@[simp] theorem State.takeBuffer_ch (s : State) : (s.takeBuffer).ch = s.ch := rfl
@[simp] theorem State.takeBuffer_wix (s : State) : (s.takeBuffer).wix = s.wix := rfl
@[simp] theorem State.takeBuffer_curValid (s : State) : (s.takeBuffer).curValid = true := rfl
@[simp] theorem State.takeBuffer_cur (s : State) : (s.takeBuffer).cur = s.slotAddr := rfl
@[simp] theorem State.takeBuffer_chan0 (s : State) : (s.takeBuffer).chan0 = s.chan0 := rfl
@[simp] theorem State.takeBuffer_chan1 (s : State) : (s.takeBuffer).chan1 = s.chan1 := rfl
@[simp] theorem State.takeBuffer_bufmem (s : State) : (s.takeBuffer).bufmem = s.bufmem := rfl
@[simp] theorem State.takeBuffer_faulted (s : State) : (s.takeBuffer).faulted = s.faulted := rfl
@[simp] theorem State.takeBuffer_history (s : State) : (s.takeBuffer).history = s.history ++ [.take s.slotAddr] := rfl
@[simp] theorem State.takeBuffer_stimulus (s : State) : (s.takeBuffer).stimulus = s.stimulus := rfl
@[simp] theorem State.takeBuffer_hostReads (s : State) : (s.takeBuffer).hostReads = s.hostReads := rfl
@[simp] theorem State.takeBuffer_draws (s : State) : (s.takeBuffer).draws = s.draws := rfl
@[simp] theorem State.takeBuffer_numChannels (s : State) : (s.takeBuffer).numChannels = s.numChannels := rfl
@[simp] theorem State.takeBuffer_decimation (s : State) : (s.takeBuffer).decimation = s.decimation := rfl
@[simp] theorem State.takeBuffer_regionLen (s : State) : (s.takeBuffer).regionLen = s.regionLen := rfl
@[simp] theorem State.takeBuffer_reqSize (s : State) : (s.takeBuffer).reqSize = s.reqSize := rfl
@[simp] theorem State.takeBuffer_regionBase (s : State) (z : BitVec 1) : (s.takeBuffer).regionBase z = s.regionBase z := rfl
@[simp] theorem State.takeBuffer_histBase (s : State) (z : Nat) : (s.takeBuffer).histBase z = s.histBase z := rfl

/-! ### `State.emitFrame` -/

@[simp] theorem State.emitFrame_params (s : State) : (s.emitFrame).params = s.params := rfl
@[simp] theorem State.emitFrame_channels (s : State) : (s.emitFrame).channels = s.channels := rfl
@[simp] theorem State.emitFrame_s2Shift (s : State) : (s.emitFrame).s2Shift = s.s2Shift := rfl
@[simp] theorem State.emitFrame_decim (s : State) : (s.emitFrame).decim = s.decim := rfl
@[simp] theorem State.emitFrame_ntaps (s : State) : (s.emitFrame).ntaps = s.ntaps := rfl
@[simp] theorem State.emitFrame_bufBase (s : State) : (s.emitFrame).bufBase = s.bufBase := rfl
@[simp] theorem State.emitFrame_bufWords (s : State) : (s.emitFrame).bufWords = s.bufWords := rfl
@[simp] theorem State.emitFrame_s1Coef (s : State) : (s.emitFrame).s1Coef = s.s1Coef := rfl
@[simp] theorem State.emitFrame_s2Coef (s : State) : (s.emitFrame).s2Coef = s.s2Coef := rfl
@[simp] theorem State.emitFrame_runState (s : State) : (s.emitFrame).runState = s.runState := rfl
@[simp] theorem State.emitFrame_err (s : State) : (s.emitFrame).err = s.err := rfl
@[simp] theorem State.emitFrame_active (s : State) : (s.emitFrame).active = s.active := rfl
@[simp] theorem State.emitFrame_count (s : State) : (s.emitFrame).count = s.count := rfl
@[simp] theorem State.emitFrame_slotFull (s : State) : (s.emitFrame).slotFull = s.slotFull := rfl
@[simp] theorem State.emitFrame_slotAddr (s : State) : (s.emitFrame).slotAddr = s.slotAddr := rfl
@[simp] theorem State.emitFrame_cstate (s : State) : (s.emitFrame).cstate = .await := rfl
@[simp] theorem State.emitFrame_ch (s : State) : (s.emitFrame).ch = 0#1 := rfl
@[simp] theorem State.emitFrame_wix (s : State) : (s.emitFrame).wix = 0#16 := rfl
@[simp] theorem State.emitFrame_curValid (s : State) : (s.emitFrame).curValid = false := rfl
@[simp] theorem State.emitFrame_cur (s : State) : (s.emitFrame).cur = s.cur := rfl
@[simp] theorem State.emitFrame_chan0 (s : State) : (s.emitFrame).chan0 = s.chan0 := rfl
@[simp] theorem State.emitFrame_chan1 (s : State) : (s.emitFrame).chan1 = s.chan1 := rfl
@[simp] theorem State.emitFrame_bufmem (s : State) : (s.emitFrame).bufmem = s.bufmem := rfl
@[simp] theorem State.emitFrame_faulted (s : State) : (s.emitFrame).faulted = s.faulted := rfl
@[simp] theorem State.emitFrame_history (s : State) : (s.emitFrame).history = s.history ++ [.frame s.frameSamples] := rfl
@[simp] theorem State.emitFrame_stimulus (s : State) : (s.emitFrame).stimulus = s.stimulus := rfl
@[simp] theorem State.emitFrame_hostReads (s : State) : (s.emitFrame).hostReads = s.hostReads := rfl
@[simp] theorem State.emitFrame_draws (s : State) : (s.emitFrame).draws = s.draws := rfl
@[simp] theorem State.emitFrame_numChannels (s : State) : (s.emitFrame).numChannels = s.numChannels := rfl
@[simp] theorem State.emitFrame_decimation (s : State) : (s.emitFrame).decimation = s.decimation := rfl
@[simp] theorem State.emitFrame_regionLen (s : State) : (s.emitFrame).regionLen = s.regionLen := rfl
@[simp] theorem State.emitFrame_reqSize (s : State) : (s.emitFrame).reqSize = s.reqSize := rfl
@[simp] theorem State.emitFrame_regionBase (s : State) (z : BitVec 1) : (s.emitFrame).regionBase z = s.regionBase z := rfl
@[simp] theorem State.emitFrame_histBase (s : State) (z : Nat) : (s.emitFrame).histBase z = s.histBase z := rfl

/-! ### `State.afterReset` -/

@[simp] theorem State.afterReset_params (s z : State) : (s.afterReset z).params = z.params := rfl
@[simp] theorem State.afterReset_channels (s z : State) : (s.afterReset z).channels = z.channels := rfl
@[simp] theorem State.afterReset_s2Shift (s z : State) : (s.afterReset z).s2Shift = z.s2Shift := rfl
@[simp] theorem State.afterReset_decim (s z : State) : (s.afterReset z).decim = z.decim := rfl
@[simp] theorem State.afterReset_ntaps (s z : State) : (s.afterReset z).ntaps = z.ntaps := rfl
@[simp] theorem State.afterReset_bufBase (s z : State) : (s.afterReset z).bufBase = z.bufBase := rfl
@[simp] theorem State.afterReset_bufWords (s z : State) : (s.afterReset z).bufWords = z.bufWords := rfl
@[simp] theorem State.afterReset_s1Coef (s z : State) : (s.afterReset z).s1Coef = z.s1Coef := rfl
@[simp] theorem State.afterReset_s2Coef (s z : State) : (s.afterReset z).s2Coef = z.s2Coef := rfl
@[simp] theorem State.afterReset_runState (s z : State) : (s.afterReset z).runState = z.runState := rfl
@[simp] theorem State.afterReset_err (s z : State) : (s.afterReset z).err = z.err := rfl
@[simp] theorem State.afterReset_active (s z : State) : (s.afterReset z).active = z.active := rfl
@[simp] theorem State.afterReset_count (s z : State) : (s.afterReset z).count = z.count := rfl
@[simp] theorem State.afterReset_slotFull (s z : State) : (s.afterReset z).slotFull = z.slotFull := rfl
@[simp] theorem State.afterReset_slotAddr (s z : State) : (s.afterReset z).slotAddr = z.slotAddr := rfl
@[simp] theorem State.afterReset_cstate (s z : State) : (s.afterReset z).cstate = z.cstate := rfl
@[simp] theorem State.afterReset_ch (s z : State) : (s.afterReset z).ch = z.ch := rfl
@[simp] theorem State.afterReset_wix (s z : State) : (s.afterReset z).wix = z.wix := rfl
@[simp] theorem State.afterReset_curValid (s z : State) : (s.afterReset z).curValid = z.curValid := rfl
@[simp] theorem State.afterReset_cur (s z : State) : (s.afterReset z).cur = z.cur := rfl
@[simp] theorem State.afterReset_chan0 (s z : State) : (s.afterReset z).chan0 = freeChannel s.params s.draws 0 := rfl
@[simp] theorem State.afterReset_chan1 (s z : State) : (s.afterReset z).chan1 = freeChannel s.params s.draws 1 := rfl
@[simp] theorem State.afterReset_bufmem (s z : State) : (s.afterReset z).bufmem = z.bufmem := rfl
@[simp] theorem State.afterReset_faulted (s z : State) : (s.afterReset z).faulted = z.faulted := rfl
@[simp] theorem State.afterReset_history (s z : State) : (s.afterReset z).history = s.history ++ [.reset] := rfl
@[simp] theorem State.afterReset_stimulus (s z : State) : (s.afterReset z).stimulus = s.stimulus := rfl
@[simp] theorem State.afterReset_hostReads (s z : State) : (s.afterReset z).hostReads = s.hostReads := rfl
@[simp] theorem State.afterReset_draws (s z : State) : (s.afterReset z).draws = s.draws + 2 * (s.params.s2TapsMax + 1) := rfl

end Sys2Proof.Machine
end

