-- ==== Sys2Proof/Laws/Memory.lean ====
section
/-! SUPPORT. The laws of a memory and of the BUFMEM operations: read after write, the canonical form, and what each
operation can answer. -/

namespace Sys2Proof.Machine

/-! ## One memory -/

@[simp] theorem Memory.read_nil (a : Nat) : Memory.read [] a = none := rfl

theorem Memory.read_write (m : Memory) (a b : Nat) (v : Word) :
    (m.write a v).read b = if b = a then some v else m.read b := by
  induction m with
  | nil => simp only [Memory.write, Memory.read, eq_comm]
  | cons x m ih =>
    obtain ⟨c, w⟩ := x
    simp only [Memory.write]
    split_ifs with h1 h2 h3 h3 h3 <;> simp only [Memory.read] <;> try split_ifs
    all_goals first | rfl | omega | simp_all

@[simp] theorem Memory.read_write_self (m : Memory) (a : Nat) (v : Word) : (m.write a v).read a = some v := by
  simp [Memory.read_write]

theorem Memory.read_write_of_ne (m : Memory) {a b : Nat} (v : Word) (h : b ≠ a) :
    (m.write a v).read b = m.read b := by
  simp [Memory.read_write, h]

theorem Memory.marked_write (m : Memory) (a b : Nat) (v : Word) :
    (m.write a v).marked b = (decide (b = a) || m.marked b) := by
  by_cases h : b = a <;> simp [Memory.marked, Memory.read_write, h]

theorem Memory.marked_iff (m : Memory) (a : Nat) : m.marked a = true ↔ ∃ w, m.read a = some w := by
  simp [Memory.marked, Option.isSome_iff_exists]

/-- Where the entries of a written memory come from. -/
theorem Memory.mem_write (m : Memory) (a : Nat) (v : Word) (x : Nat × Word) (h : x ∈ m.write a v) :
    x = (a, v) ∨ x ∈ m := by
  induction m with
  | nil => simpa [Memory.write] using h
  | cons y m ih =>
    obtain ⟨c, w⟩ := y
    simp only [Memory.write] at h
    split_ifs at h <;> simp only [List.mem_cons] at h ⊢ <;> tauto

theorem Memory.mem_of_read {m : Memory} {a : Nat} {w : Word} (h : m.read a = some w) : (a, w) ∈ m := by
  induction m with
  | nil => simp at h
  | cons y m ih =>
    obtain ⟨c, u⟩ := y
    simp only [Memory.read] at h
    split_ifs at h with h1
    · simp_all
    · exact List.mem_cons_of_mem _ (ih h)

/-- A write keeps the canonical form. -/
theorem Memory.wf_write {m : Memory} (h : m.wf) (a : Nat) (v : Word) : (m.write a v).wf := by
  induction m with
  | nil => simp [Memory.write, Memory.wf]
  | cons y m ih =>
    obtain ⟨c, w⟩ := y
    simp only [Memory.wf, List.pairwise_cons] at h ih ⊢
    simp only [Memory.write]
    split_ifs with h1 h2
    · refine List.pairwise_cons.2 ⟨?_, List.pairwise_cons.2 h⟩
      intro x hx
      rcases List.mem_cons.1 hx with rfl | hx
      · exact h1
      · exact lt_trans h1 (h.1 x hx)
    · subst h2
      exact List.pairwise_cons.2 h
    · refine List.pairwise_cons.2 ⟨?_, ih h.2⟩
      intro x hx
      rcases Memory.mem_write m a v x hx with rfl | hx
      · show c < a; omega
      · exact h.1 x hx

theorem Memory.read_none_of_lt {m : Memory} {a : Nat} (h : ∀ x ∈ m, a < x.1) : m.read a = none := by
  induction m with
  | nil => rfl
  | cons y m ih =>
    obtain ⟨c, w⟩ := y
    have h1 : a < c := h (c, w) (List.mem_cons_self ..)
    simp only [Memory.read, if_neg (show c ≠ a by omega)]
    exact ih fun x hx => h x (List.mem_cons_of_mem _ hx)

/-- In canonical form, memories that read alike everywhere are equal. -/
theorem Memory.ext_read {m n : Memory} (hm : m.wf) (hn : n.wf) (h : ∀ a, m.read a = n.read a) : m = n := by
  induction m generalizing n with
  | nil =>
    cases n with
    | nil => rfl
    | cons y n => have := h y.1; simp [Memory.read] at this
  | cons x m ih =>
    obtain ⟨c, w⟩ := x
    cases n with
    | nil => have := h c; simp [Memory.read] at this
    | cons y n =>
      obtain ⟨d, u⟩ := y
      simp only [Memory.wf, List.pairwise_cons] at hm hn
      have hcd : c = d := by
        rcases lt_trichotomy c d with hlt | heq | hgt
        · have h1 := h c
          rw [Memory.read, if_pos rfl, Memory.read, if_neg (by omega),
            Memory.read_none_of_lt (fun x hx => lt_trans hlt (hn.1 x hx))] at h1
          simp at h1
        · exact heq
        · have h1 := h d
          rw [Memory.read, if_neg (by omega), Memory.read, if_pos rfl,
            Memory.read_none_of_lt (fun x hx => lt_trans hgt (hm.1 x hx))] at h1
          simp at h1
      subst hcd
      have hw : w = u := by simpa [Memory.read] using h c
      subst hw
      congr 1
      refine ih hm.2 hn.2 fun a => ?_
      by_cases ha : a = c
      · subst ha
        rw [Memory.read_none_of_lt hm.1, Memory.read_none_of_lt hn.1]
      · simpa [Memory.read, Ne.symm ha] using h a

/-! ## A run of words -/

/-- The words `vs` written from `a` up. -/
def Memory.writeRun (m : Memory) (a : Nat) : List Word → Memory
  | [] => m
  | v :: vs => Memory.writeRun (m.write a v) (a + 1) vs

theorem Memory.read_writeRun (m : Memory) (a b : Nat) (vs : List Word) :
    (m.writeRun a vs).read b = if a ≤ b ∧ b < a + vs.length then vs[b - a]? else m.read b := by
  induction vs generalizing m a with
  | nil => simp [Memory.writeRun]
  | cons v vs ih =>
    rw [Memory.writeRun, ih, Memory.read_write]
    by_cases h1 : b = a
    · subst h1; simp
    · by_cases h2 : a ≤ b
      · obtain ⟨k, rfl⟩ : ∃ k, b = a + 1 + k := ⟨b - (a + 1), by omega⟩
        have e1 : a + 1 + k - (a + 1) = k := by omega
        have e2 : a + 1 + k - a = k + 1 := by omega
        rw [e1, e2, List.getElem?_cons_succ, List.length_cons]
        by_cases h3 : k < vs.length
        · rw [if_pos (by omega), if_pos (by omega)]
        · rw [if_neg (by omega), if_neg (by omega), if_neg (by omega)]
      · rw [if_neg (by omega), if_neg h1, if_neg (by omega)]

theorem Memory.read_writeRun_outside (m : Memory) {a b : Nat} {vs : List Word} (h : b < a ∨ a + vs.length ≤ b) :
    (m.writeRun a vs).read b = m.read b := by
  rw [Memory.read_writeRun, if_neg (by omega)]

theorem Memory.read_writeRun_inside (m : Memory) (a : Nat) {vs : List Word} {i : Nat} (h : i < vs.length) :
    (m.writeRun a vs).read (a + i) = some vs[i] := by
  rw [Memory.read_writeRun, if_pos (by omega), Nat.add_sub_cancel_left, List.getElem?_eq_getElem h]

theorem Memory.wf_writeRun {m : Memory} (h : m.wf) (a : Nat) (vs : List Word) : (m.writeRun a vs).wf := by
  induction vs generalizing m a with
  | nil => exact h
  | cons v vs ih => exact ih (Memory.wf_write h a v) _

theorem Memory.mem_writeRun (m : Memory) (a : Nat) (vs : List Word) (x : Nat × Word) (h : x ∈ m.writeRun a vs) :
    (a ≤ x.1 ∧ x.1 < a + vs.length) ∨ x ∈ m := by
  induction vs generalizing m a with
  | nil => exact .inr h
  | cons v vs ih =>
    rcases ih _ _ h with h | h
    · left; simp only [List.length_cons]; omega
    · rcases Memory.mem_write m a v x h with rfl | h
      · left; simp
      · exact .inr h

theorem Memory.marked_writeRun (m : Memory) (a b : Nat) (vs : List Word) :
    (m.writeRun a vs).marked b = (decide (a ≤ b ∧ b < a + vs.length) || m.marked b) := by
  unfold Memory.marked
  rw [Memory.read_writeRun]
  split_ifs with h
  · simp [h, List.getElem?_eq_getElem (show b - a < vs.length by omega)]
  · simp [h]

/-! ## BUFMEM -/

theorem State.memRead_ok {s : State} {a : Nat} {w : Word} :
    s.memRead a = .ok w ↔ a < s.params.bufmemWords ∧ s.bufmem.read a = some w := by
  unfold State.memRead
  split_ifs with h
  · cases hr : s.bufmem.read a <;> simp [h]
  · simp [h]

theorem State.memRead_error {s : State} {a : Nat} {h : Halt} (e : s.memRead a = .error h) :
    (h = .raised .uninitRead ∧ s.bufmem.marked a = false) ∨ (h = .noWord a ∧ s.params.bufmemWords ≤ a) := by
  unfold State.memRead at e
  split_ifs at e with h1
  · cases hr : s.bufmem.read a with
    | none => simp_all [Memory.marked]
    | some w => simp [hr] at e
  · simp only [Except.error.injEq] at e
    exact .inr ⟨e.symm, by omega⟩

theorem State.memWrite_ok {s t : State} {a : Nat} {v : Word} :
    s.memWrite a v = .ok t ↔ a < s.params.bufmemWords ∧ t = s.setBufmem (s.bufmem.write a v) := by
  unfold State.memWrite
  split_ifs with h
  · simp [h, eq_comm]
  · simp [h]

theorem State.memWrite_error {s : State} {a : Nat} {v : Word} {h : Halt} (e : s.memWrite a v = .error h) :
    h = .noWord a ∧ s.params.bufmemWords ≤ a := by
  unfold State.memWrite at e
  split_ifs at e with h1
  simp only [Except.error.injEq] at e
  exact ⟨e.symm, by omega⟩

/-- What reading a run of words answers when it answers. -/
theorem State.memReads_ok {s : State} {a n : Nat} {ws : List Word} :
    s.memReads a n = .ok ws ↔
      ws.length = n ∧ ∀ i (h : i < ws.length), a + i < s.params.bufmemWords ∧ s.bufmem.read (a + i) = some ws[i] := by
  induction n generalizing a ws with
  | zero =>
    simp only [State.memReads, Except.ok.injEq]
    constructor
    · rintro rfl; simp
    · rintro ⟨h, -⟩; exact (List.length_eq_zero_iff.1 h).symm
  | succ n ih =>
    simp only [State.memReads]
    constructor
    · intro e
      cases hr : s.memRead a with
      | error h => simp [hr] at e
      | ok w =>
        cases hs : s.memReads (a + 1) n with
        | error h => simp [hr, hs] at e
        | ok vs =>
          simp only [hr, hs, Except.ok.injEq] at e
          subst e
          obtain ⟨hl, hv⟩ := ih.1 hs
          obtain ⟨h1, h2⟩ := State.memRead_ok.1 hr
          refine ⟨by simp [hl], ?_⟩
          rintro (_ | i) hi
          · exact ⟨h1, h2⟩
          · have := hv i (by simpa using hi)
            rw [show a + (i + 1) = a + 1 + i by omega]
            simpa using this
    · rintro ⟨hl, hv⟩
      cases ws with
      | nil => simp at hl
      | cons w vs =>
        have h0 := hv 0 (by simp)
        rw [State.memRead_ok.2 (by simpa using h0)]
        have : s.memReads (a + 1) n = .ok vs := ih.2 ⟨by simpa using hl, fun i hi => by
          have := hv (i + 1) (by simpa using hi)
          rw [show a + (i + 1) = a + 1 + i by omega] at this
          simpa using this⟩
        simp [this]

/-- Why reading a run of words is abandoned. -/
theorem State.memReads_error {s : State} {a n : Nat} {h : Halt} (e : s.memReads a n = .error h) :
    ∃ i < n, (h = .raised .uninitRead ∧ s.bufmem.marked (a + i) = false) ∨
      (h = .noWord (a + i) ∧ s.params.bufmemWords ≤ a + i) := by
  induction n generalizing a with
  | zero => simp [State.memReads] at e
  | succ n ih =>
    simp only [State.memReads] at e
    cases hr : s.memRead a with
    | error h' =>
      simp only [hr, Except.error.injEq] at e
      subst e
      exact ⟨0, by omega, by simpa using State.memRead_error hr⟩
    | ok w =>
      cases hs : s.memReads (a + 1) n with
      | ok vs => simp [hr, hs] at e
      | error h' =>
        simp only [hr, hs, Except.error.injEq] at e
        subst e
        obtain ⟨i, hi, hc⟩ := ih hs
        exact ⟨i + 1, by omega, by rw [show a + (i + 1) = a + 1 + i by omega]; exact hc⟩

theorem State.memReads_of_marked {s : State} {a n : Nat} (hn : ∀ i < n, a + i < s.params.bufmemWords)
    (hm : ∀ i < n, s.bufmem.marked (a + i) = true) : ∃ ws, s.memReads a n = .ok ws := by
  cases hr : s.memReads a n with
  | ok ws => exact ⟨ws, rfl⟩
  | error h =>
    obtain ⟨i, hi, ⟨-, hc⟩ | ⟨-, hc⟩⟩ := State.memReads_error hr
    · simp [hm i hi] at hc
    · have := hn i hi; omega

/-- What writing a run of words does when it answers. -/
theorem State.memWrites_ok {s t : State} {a : Nat} {vs : List Word} (e : s.memWrites a vs = .ok t) :
    t = s.setBufmem (s.bufmem.writeRun a vs) ∧ (vs ≠ [] → a + vs.length ≤ s.params.bufmemWords) := by
  induction vs generalizing s a with
  | nil =>
    simp only [State.memWrites, Except.ok.injEq] at e
    exact ⟨e.symm, by simp⟩
  | cons v vs ih =>
    simp only [State.memWrites] at e
    cases hw : s.memWrite a v with
    | error h => simp [hw] at e
    | ok s' =>
      simp only [hw] at e
      obtain ⟨h1, rfl⟩ := State.memWrite_ok.1 hw
      obtain ⟨rfl, h2⟩ := ih e
      refine ⟨rfl, fun _ => ?_⟩
      cases vs with
      | nil => simp; omega
      | cons u us => have := h2 (by simp); simp only [List.length_cons, State.setBufmem_params] at this ⊢; omega

theorem State.memWrites_of_le {s : State} {a : Nat} {vs : List Word} (h : a + vs.length ≤ s.params.bufmemWords) :
    s.memWrites a vs = .ok (s.setBufmem (s.bufmem.writeRun a vs)) := by
  induction vs generalizing s a with
  | nil => rfl
  | cons v vs ih =>
    simp only [List.length_cons] at h
    rw [State.memWrites, State.memWrite_ok.2 ⟨by omega, rfl⟩]
    exact ih (by show a + 1 + vs.length ≤ s.params.bufmemWords; omega)

theorem State.memWrites_error {s : State} {a : Nat} {vs : List Word} {h : Halt} (e : s.memWrites a vs = .error h) :
    (∃ b, h = .noWord b) ∧ s.params.bufmemWords < a + vs.length := by
  constructor
  · induction vs generalizing s a with
    | nil => simp [State.memWrites] at e
    | cons v vs ih =>
      simp only [State.memWrites] at e
      cases hw : s.memWrite a v with
      | error h' =>
        simp only [hw, Except.error.injEq] at e
        subst e
        exact ⟨a, (State.memWrite_error hw).1⟩
      | ok s' => simp only [hw] at e; exact ih e
  · by_contra hc
    rw [State.memWrites_of_le (by omega)] at e
    simp at e

/-! ## The coefficient memories -/

theorem readCoefs_ok {m : Memory} {k n : Nat} {ws : List Word} :
    readCoefs m k n = .ok ws ↔ ws.length = n ∧ ∀ i (h : i < ws.length), m.read (k + i) = some ws[i] := by
  induction n generalizing k ws with
  | zero =>
    simp only [readCoefs, Except.ok.injEq]
    constructor
    · rintro rfl; simp
    · rintro ⟨h, -⟩; exact (List.length_eq_zero_iff.1 h).symm
  | succ n ih =>
    simp only [readCoefs]
    constructor
    · intro e
      cases hr : m.read k with
      | none => simp [hr] at e
      | some w =>
        cases hs : readCoefs m (k + 1) n with
        | error h => simp [hr, hs] at e
        | ok vs =>
          simp only [hr, hs, Except.ok.injEq] at e
          subst e
          obtain ⟨hl, hv⟩ := ih.1 hs
          refine ⟨by simp [hl], ?_⟩
          rintro (_ | i) hi
          · exact hr
          · have := hv i (by simpa using hi)
            rw [show k + (i + 1) = k + 1 + i by omega]
            simpa using this
    · rintro ⟨hl, hv⟩
      cases ws with
      | nil => simp at hl
      | cons w vs =>
        have h0 : m.read k = some w := hv 0 (by simp)
        have : readCoefs m (k + 1) n = .ok vs := ih.2 ⟨by simpa using hl, fun i hi => by
          have := hv (i + 1) (by simpa using hi)
          rw [show k + (i + 1) = k + 1 + i by omega] at this
          simpa using this⟩
        simp [h0, this]

theorem readCoefs_error {m : Memory} {k n : Nat} {h : Halt} (e : readCoefs m k n = .error h) :
    h = .raised .uninitRead ∧ ∃ i < n, m.marked (k + i) = false := by
  induction n generalizing k with
  | zero => simp [readCoefs] at e
  | succ n ih =>
    simp only [readCoefs] at e
    cases hr : m.read k with
    | none =>
      simp only [hr, Except.error.injEq] at e
      exact ⟨e.symm, 0, by omega, by simp [Memory.marked, hr]⟩
    | some w =>
      cases hs : readCoefs m (k + 1) n with
      | ok vs => simp [hr, hs] at e
      | error h' =>
        simp only [hr, hs, Except.error.injEq] at e
        subst e
        obtain ⟨h1, i, hi, hc⟩ := ih hs
        exact ⟨h1, i + 1, by omega, by rw [show k + (i + 1) = k + 1 + i by omega]; exact hc⟩

theorem readCoefs_of_marked {m : Memory} {k n : Nat} (h : ∀ i < n, m.marked (k + i) = true) :
    ∃ ws, readCoefs m k n = .ok ws := by
  cases hr : readCoefs m k n with
  | ok ws => exact ⟨ws, rfl⟩
  | error e =>
    obtain ⟨-, i, hi, hc⟩ := readCoefs_error hr
    simp [h i hi] at hc

/-! ## Reset -/

/-- The memories of the state after reset are canonical. -/
theorem State.resetWith_memories_wf (p : Params) :
    (State.resetWith p).bufmem.wf ∧ (State.resetWith p).s1Coef.wf ∧ (State.resetWith p).s2Coef.wf :=
  ⟨List.Pairwise.nil, List.Pairwise.nil, List.Pairwise.nil⟩

/-- `State.reset`'s memory has the canonical form. -/
theorem State.reset_bufmem_wf : State.reset.bufmem.wf := (State.resetWith_memories_wf Params.default).1

/-- A BUFMEM write keeps the canonical form. -/
theorem State.memWrite_wf {s t : State} {a : Nat} {v : Word} (h : s.bufmem.wf) (e : s.memWrite a v = .ok t) :
    t.bufmem.wf := by
  obtain ⟨_, rfl⟩ := State.memWrite_ok.1 e
  exact Memory.wf_write h a v

end Sys2Proof.Machine
end

