-- ==== Sys2Proof/Laws/Ops.lean ====
section
/-! SUPPORT. What each shared operation of the machine can do: one lemma per operation that says everything about the next
state it can answer. -/

namespace Sys2Proof.Machine

/-! ## Guards -/

@[simp] theorem State.unlessFaulted_next (s t : State) (r : Result) :
    s.unlessFaulted r = .next t ↔ s.faulted = none ∧ r = .next t := by
  unfold State.unlessFaulted
  cases h : s.faulted <;> simp

theorem State.unlessFaulted_none {s : State} (h : s.faulted = none) (r : Result) : s.unlessFaulted r = r := by
  unfold State.unlessFaulted
  rw [h]

theorem State.unlessFaulted_some {s : State} {k : ModelFault} (h : s.faulted = some k) (r : Result) :
    s.unlessFaulted r = .fault (.modelFaulted k) := by
  unfold State.unlessFaulted
  rw [h]

@[simp] theorem State.consumerStep_next (s t : State) (b : Bool) (r : Result) :
    s.consumerStep b r = .next t ↔ s.faulted = none ∧ s.runState = .running ∧ b = true ∧ r = .next t := by
  unfold State.consumerStep
  rw [State.unlessFaulted_next]
  split_ifs with h
  · simp [h]
  · simp only [and_false, false_iff]; tauto

theorem State.consumerStep_enabled {s : State} {b : Bool} (h : s.faulted = none) (hr : s.runState = .running)
    (hb : b = true) (r : Result) : s.consumerStep b r = r := by
  unfold State.consumerStep
  rw [State.unlessFaulted_none h, if_pos ⟨hr, hb⟩]

@[simp] theorem Halt.outcome_next (h : Halt) (s t : State) :
    h.outcome s = .next t ↔ ∃ k, h = .raised k ∧ t = s.raise k := by
  cases h <;> simp [Halt.outcome, eq_comm]

/-! ## Channels -/

@[simp] theorem State.chan_setChan_self (s : State) (c : BitVec 1) (x : Channel) : (s.setChan c x).chan c = x := by
  unfold State.chan State.setChan
  split_ifs <;> rfl

theorem State.chan_setChan_of_ne (s : State) {c d : BitVec 1} (x : Channel) (h : d ≠ c) :
    (s.setChan c x).chan d = s.chan d := by
  have hb (a : BitVec 1) : a = 0#1 ∨ a = 1#1 := by revert a; decide
  rcases hb c with rfl | rfl <;> rcases hb d with rfl | rfl <;> first | exact absurd rfl h | rfl

theorem State.chan_congr {s t : State} (h0 : t.chan0 = s.chan0) (h1 : t.chan1 = s.chan1) (c : BitVec 1) :
    t.chan c = s.chan c := by
  unfold State.chan
  rw [h0, h1]

/-! ## MMIO offsets and transactions -/

/-- The coefficient part of the map: the aligned offsets above REQ_WORDS (R76). -/
theorem mmioReg_above {p : Nat} {off : BitVec 12} (ha : off.toNat % 4 = 0) (h : 0x01C ≤ off.toNat) :
    mmioReg p off =
      if off.toNat < 0x400 then .unmapped
      else if off.toNat < 0x800 then .s1Coef ((off.toNat - 0x400) / 4)
      else if (off.toNat - 0x800) / 4 < p then .s2Coef ((off.toNat - 0x800) / 4)
      else .unmapped := by
  have low : ∀ k < 0x01C, ¬off.toNat = k := fun k hk => by omega
  simp [mmioReg, ha, low]

theorem mmioReg_s1Coef (p : Nat) {t : Nat} (h : t < 256) :
    mmioReg p (BitVec.ofNat 12 (0x400 + 4 * t)) = .s1Coef t := by
  have e : (BitVec.ofNat 12 (0x400 + 4 * t)).toNat = 0x400 + 4 * t := by simp; omega
  rw [mmioReg_above (by omega) (by omega), e]
  split_ifs <;> first | omega | (congr 1; omega)

theorem mmioReg_s2Coef {p k : Nat} (h : k < p) (hp : p ≤ 255) :
    mmioReg p (BitVec.ofNat 12 (0x800 + 4 * k)) = .s2Coef k := by
  have e : (BitVec.ofNat 12 (0x800 + 4 * k)).toNat = 0x800 + 4 * k := by simp; omega
  rw [mmioReg_above (by omega) (by omega), e]
  split_ifs <;> first | omega | (congr 1; omega)

theorem mmioReg_unmapped {p : Nat} {off : BitVec 12}
    (h : (0x01C ≤ off.toNat ∧ off.toNat < 0x400) ∨ 0x800 + 4 * p ≤ off.toNat) : mmioReg p off = .unmapped := by
  by_cases ha : off.toNat % 4 = 0
  · rw [mmioReg_above ha (by omega)]
    split_ifs <;> first | rfl | omega
  · exact if_pos ha

/-- What `mmioReg` can name, and where (R76). -/
theorem mmioReg_cases (p : Nat) (off : BitVec 12) :
    (mmioReg p off = .ctrl ∧ off = 0x000#12) ∨ (∃ t < 256, mmioReg p off = .s1Coef t) ∨
      (∃ k < p, mmioReg p off = .s2Coef k) ∨
      mmioReg p off ∈ [.status, .cfg, .s2Ntaps, .bufBase, .bufWords, .reqWords, .unmapped] := by
  by_cases h0 : off.toNat % 4 = 0
  swap
  · have : mmioReg p off = .unmapped := if_pos h0
    simp [this]
  by_cases h1 : off.toNat < 0x01C
  · have h : off ∈ [0x000#12, 0x004#12, 0x008#12, 0x00C#12, 0x010#12, 0x014#12, 0x018#12] := by
      have : off.toNat ∈ [0x000, 0x004, 0x008, 0x00C, 0x010, 0x014, 0x018] := by
        simp only [List.mem_cons, List.not_mem_nil, or_false]; omega
      simpa [← BitVec.toNat_inj] using this
    simp only [List.mem_cons, List.not_mem_nil, or_false] at h
    rcases h with rfl | rfl | rfl | rfl | rfl | rfl | rfl
    · exact .inl ⟨rfl, rfl⟩
    all_goals exact .inr (.inr (.inr (by simp [mmioReg])))
  by_cases h2 : off.toNat < 0x400
  · rw [mmioReg_unmapped (.inl ⟨by omega, h2⟩)]
    simp
  by_cases h3 : off.toNat < 0x800
  · have e : off = BitVec.ofNat 12 (0x400 + 4 * ((off.toNat - 0x400) / 4)) := by
      apply BitVec.eq_of_toNat_eq; simp; omega
    refine .inr (.inl ⟨(off.toNat - 0x400) / 4, by omega, ?_⟩)
    rw [← mmioReg_s1Coef p (show (off.toNat - 0x400) / 4 < 256 by omega), ← e]
  by_cases h4 : (off.toNat - 0x800) / 4 < p
  · refine .inr (.inr (.inl ⟨(off.toNat - 0x800) / 4, h4, ?_⟩))
    rw [mmioReg_above h0 (by omega), if_neg h2, if_neg h3, if_pos h4]
  · rw [mmioReg_unmapped (.inr (by omega))]
    simp

/-! ## START -/

/-- A legal configuration, as SETUP_CHECK accepts it (R281). -/
theorem State.setupCheck_none {s : State} :
    s.setupCheck = .none ↔ (s.numChannels = 1 ∨ s.numChannels = 2) ∧ s.decimation ≠ 0 ∧
      1 ≤ s.ntaps.toNat ∧ s.ntaps.toNat ≤ s.params.s2TapsMax ∧ s.bufWords.toNat = s.reqSize ∧
      s.bufBase.toNat + s.reqSize ≤ s.params.bufmemWords := by
  unfold State.setupCheck
  constructor
  · intro h
    split_ifs at h with h1 h2 h3 h4 h5
    refine ⟨by tauto, h2, by omega, by omega, by tauto, by omega⟩
  · rintro ⟨h1, h2, h3, h4, h5, h6⟩
    rw [if_neg (by tauto), if_neg h2, if_neg (by omega), if_neg (by tauto), if_neg (by omega)]

theorem State.reqSize_eq (s : State) : s.reqSize = 2 * s.regionLen + s.numChannels * 8 := by
  unfold State.reqSize State.regionLen Config.histWords
  ring

theorem State.histBase_eq (s : State) (c : Nat) : s.histBase c = s.bufBase.toNat + 2 * s.regionLen + c * 8 := rfl

/-- The sizes of a legal configuration (R6). -/
theorem State.regionLen_bounds {s : State} (h : s.setupCheck = .none) :
    1 ≤ s.regionLen ∧ s.regionLen ≤ 131070 ∧ s.decimation ≤ s.regionLen ∧
      (s.numChannels = 1 → s.regionLen = s.decimation) ∧ (s.numChannels = 2 → s.regionLen = 2 * s.decimation) := by
  obtain ⟨hc, hd, -⟩ := State.setupCheck_none.1 h
  have hlt : s.decimation < 65536 := s.decim.isLt
  unfold State.regionLen
  rcases hc with hc | hc <;> rw [hc] <;> omega

/-- What a START whose checks pass leaves (R256, R257). -/
theorem State.setup_of_none {s : State} (h : s.setupCheck = .none) :
    s.setup = .next
      (s.setBufmem (s.bufmem.writeRun (s.histBase 0)
        (List.replicate (s.numChannels * 8) s.params.histInit))).setupRegs := by
  obtain ⟨-, -, -, -, -, h6⟩ := State.setupCheck_none.1 h
  unfold State.setup
  rw [h]
  simp only [State.setupInit, Config.histWords]
  rw [State.memWrites_of_le]
  rw [List.length_replicate, State.histBase_eq]
  rw [State.reqSize_eq] at h6
  omega

theorem State.setup_of_error {s : State} (h : s.setupCheck ≠ .none) : s.setup = .next (s.setupFail s.setupCheck) := by
  unfold State.setup
  split
  · exact absurd ‹_› h
  · rfl

/-- Everything a START can leave. -/
theorem State.setup_next {s t : State} (h : s.setup = .next t) :
    (s.setupCheck = .none ∧ t = (s.setBufmem (s.bufmem.writeRun (s.histBase 0)
        (List.replicate (s.numChannels * 8) s.params.histInit))).setupRegs) ∨
      (s.setupCheck ≠ .none ∧ t = s.setupFail s.setupCheck) := by
  by_cases hc : s.setupCheck = .none
  · rw [State.setup_of_none hc] at h
    exact .inl ⟨hc, (Host.Outcome.next.inj h).symm⟩
  · rw [State.setup_of_error hc] at h
    exact .inr ⟨hc, (Host.Outcome.next.inj h).symm⟩

/-- Everything MMIO_WR can leave (R251, R253). -/
theorem execMmioWr_next {s t : State} {off : BitVec 12} {v : Word} (h : execMmioWr off v s = .next t) :
    s.faulted = none ∧ (t = s ∨ (s.runState = .idle ∧ off = 0x000#12 ∧ v.getLsbD 0 = true ∧ s.setup = .next t) ∨
      (s.runState = .idle ∧ t = s.writeConfig (mmioReg s.params.s2TapsMax off) v)) := by
  unfold execMmioWr at h
  rw [State.unlessFaulted_next] at h
  obtain ⟨h0, h⟩ := h
  refine ⟨h0, ?_⟩
  rcases mmioReg_cases s.params.s2TapsMax off with ⟨e, h1⟩ | ⟨k, -, e⟩ | ⟨k, -, e⟩ | e
  · rw [e] at h
    dsimp only at h
    split_ifs at h with h2
    · exact .inr (.inl ⟨h2.2, h1, h2.1, h⟩)
    · exact .inl (Host.Outcome.next.inj h).symm
  all_goals
    have h' : (if s.runState = .idle then .next (s.writeConfig (mmioReg s.params.s2TapsMax off) v) else .next s : Result) =
        .next t := by
      revert h
      first
        | rw [e]; exact id
        | simp only [List.mem_cons, List.not_mem_nil, or_false] at e
          rcases e with e | e | e | e | e | e | e <;> rw [e] <;> exact id
    split_ifs at h' with h2
    · exact .inr (.inr ⟨h2, (Host.Outcome.next.inj h').symm⟩)
    · exact .inl (Host.Outcome.next.inj h').symm

theorem State.readReg_error {s : State} {r : MmioReg} {h : Halt} (e : s.readReg r = .error h) :
    h = .raised .uninitRead := by
  unfold State.readReg at e
  split at e <;> first | (split at e <;> simp_all) | simp_all

/-- Everything MMIO_RD can leave (R252). -/
theorem execMmioRd_next {s t : State} {off : BitVec 12} (h : execMmioRd off s = .next t) :
    s.faulted = none ∧ ((∃ v, t = s.giveHost v) ∨ t = s.raise .uninitRead) := by
  unfold execMmioRd at h
  rw [State.unlessFaulted_next] at h
  obtain ⟨h0, h⟩ := h
  refine ⟨h0, ?_⟩
  cases hr : s.readReg (mmioReg s.params.s2TapsMax off) with
  | error e =>
    simp only [hr, State.readReg_error hr] at h
    exact .inr (Host.Outcome.next.inj h).symm
  | ok v =>
    simp only [hr] at h
    exact .inl ⟨v, (Host.Outcome.next.inj h).symm⟩

/-! ## The producer -/

/-- The producer's store, before it is known whether the region is full (R143). -/
def State.stored (s : State) (w : Word) : State := (s.setBufmem (s.bufmem.write s.fillAddr w)).countDown

theorem count_pred_zero (c : BitVec 18) : c - 1 = 0#18 ↔ c = 1 := by
  constructor
  · intro h; bv_omega
  · rintro h; rw [h]; rfl

/-- What the producer handler leaves, case by case (R143, R144). -/
theorem State.producerHandler_eq (s : State) (w : Word) :
    s.producerHandler w =
      if s.tears then .next (s.raise .tear)
      else if s.fillAddr < s.params.bufmemWords then
        if s.count = 1 then
          if s.slotFull then .next ((s.stored w).raise .slotOverrun)
          else .next ((s.stored w).publish s.active).swapRegions
        else .next (s.stored w)
      else .fault (.noSuchWord s.fillAddr) := by
  unfold State.producerHandler
  split_ifs with h1 h2 h3 h4
  · rfl
  · rw [State.memWrite_ok.2 ⟨h2, rfl⟩]
    simp only [State.countDown_count, State.setBufmem_count, (count_pred_zero _).2 h3, ↓reduceIte,
      State.setBufmem_slotFull, h4]
    rfl
  · rw [State.memWrite_ok.2 ⟨h2, rfl⟩]
    simp only [State.countDown_count, State.setBufmem_count, (count_pred_zero _).2 h3, ↓reduceIte,
      State.setBufmem_slotFull, h4]
    rfl
  · rw [State.memWrite_ok.2 ⟨h2, rfl⟩]
    simp only [State.countDown_count, State.setBufmem_count, count_pred_zero, h3, ↓reduceIte]
    rfl
  · cases hw : s.memWrite s.fillAddr w with
    | ok u => exact absurd (State.memWrite_ok.1 hw).1 h2
    | error e => obtain ⟨rfl, -⟩ := State.memWrite_error hw; rfl

/-- Everything the producer handler can leave (R143, R144). -/
theorem State.producerHandler_next {s t : State} {w : Word} (h : s.producerHandler w = .next t) :
    (s.tears = true ∧ t = s.raise .tear) ∨
      (s.tears = false ∧ s.fillAddr < s.params.bufmemWords ∧
        ((s.count ≠ 1 ∧ t = s.stored w) ∨
         (s.count = 1 ∧ s.slotFull = true ∧ t = (s.stored w).raise .slotOverrun) ∨
         (s.count = 1 ∧ s.slotFull = false ∧ t = ((s.stored w).publish s.active).swapRegions))) := by
  rw [State.producerHandler_eq] at h
  split_ifs at h with h1 h2 h3 h4 <;> simp only [Host.Outcome.next.injEq] at h <;> simp_all

/-- Everything PORT_WORD can leave (R142, R143). -/
theorem execPortWord_next {s t : State} {w : Word} (h : execPortWord w s = .next t) :
    s.faulted = none ∧
      ((s.runState ≠ .running ∧ t = s.log (.port w)) ∨
       (s.runState = .running ∧ (s.log (.port w)).producerHandler w = .next t)) := by
  unfold execPortWord at h
  simp only [State.unlessFaulted_next] at h
  obtain ⟨h0, h⟩ := h
  refine ⟨h0, ?_⟩
  by_cases hr : s.runState = .running
  · simp only [State.armed, State.log_runState, hr, beq_self_eq_true, ↓reduceIte] at h
    exact .inr ⟨hr, h⟩
  · have : (s.runState == .running) = false := by simpa using hr
    simp only [State.armed, State.log_runState, this, Bool.false_eq_true, ↓reduceIte] at h
    exact .inl ⟨hr, (Host.Outcome.next.inj h).symm⟩

/-! ## The deinterleaver -/

theorem deint2_length (d : Nat) (b : List Word) : (deint2 d b).length = 2 * d := by
  simp [deint2]; omega

/-- Everything the work of C_DEINT can leave (R164). -/
theorem State.deinterleave_ok {s t : State} (h : s.deinterleave = .ok t) :
    (s.numChannels ≠ 2 ∧ t = s) ∨
      (s.numChannels = 2 ∧ ∃ b, s.memReads s.cur.toNat s.regionLen = .ok b ∧
        t = s.setBufmem (s.bufmem.writeRun s.cur.toNat (deint2 s.decimation b))) := by
  unfold State.deinterleave at h
  split_ifs at h with h1
  · right
    cases hr : s.memReads s.cur.toNat s.regionLen with
    | error e => simp [hr] at h
    | ok b =>
      simp only [hr] at h
      exact ⟨h1, b, rfl, (State.memWrites_ok h).1⟩
  · exact .inl ⟨h1, by simpa [eq_comm] using h⟩

/-- Why the work of C_DEINT is abandoned: a word of the held region is unwritten or outside BUFMEM. -/
theorem State.deinterleave_error {s : State} {h : Halt} (e : s.deinterleave = .error h) :
    s.numChannels = 2 ∧ ∃ i < s.regionLen, (h = .raised .uninitRead ∧ s.bufmem.marked (s.cur.toNat + i) = false) ∨
      ∃ a, h = .noWord a ∧ s.params.bufmemWords ≤ s.cur.toNat + i := by
  unfold State.deinterleave at e
  split_ifs at e with h1
  refine ⟨h1, ?_⟩
  cases hr : s.memReads s.cur.toNat s.regionLen with
  | error h' =>
    simp only [hr, Except.error.injEq] at e
    subst e
    obtain ⟨i, hi, hc⟩ := State.memReads_error hr
    exact ⟨i, hi, hc.imp id fun hc => ⟨_, hc⟩⟩
  | ok b =>
    simp only [hr] at e
    exfalso
    obtain ⟨hl, hb⟩ := State.memReads_ok.1 hr
    obtain ⟨-, hlt⟩ := State.memWrites_error e
    rw [deint2_length] at hlt
    have hL : s.regionLen = 2 * s.decimation := by unfold State.regionLen; rw [h1]
    by_cases h0 : s.regionLen = 0
    · have hd : s.decimation = 0 := by omega
      simp [hd, deint2, State.memWrites] at e
    · have := (hb (s.regionLen - 1) (by omega)).1
      omega

/-! ## Stage 1 -/

theorem shiftIn_length {window : List Word} (h : window.length = 8) (w : Word) : (shiftIn window w).length = 8 := by
  simp [shiftIn, Config.histWords, h]

/-- What s1_step leaves (R185). -/
theorem State.s1Step_ok {s t : State} {c : BitVec 1} {w y : Word} (h : s.s1Step c w = .ok (t, y)) :
    ∃ window coefs, s.memReads (s.histBase c.toNat) 8 = .ok window ∧ readCoefs s.s1Coef 0 256 = .ok coefs ∧
      t = s.setBufmem (s.bufmem.writeRun (s.histBase c.toNat) (shiftIn window w)) ∧
      y = s1Filter s.params.bitMap coefs (shiftIn window w) := by
  unfold State.s1Step at h
  cases h1 : s.memReads (s.histBase c.toNat) Config.histWords with
  | error e => simp [h1] at h
  | ok window =>
    cases h2 : readCoefs s.s1Coef 0 Config.s1Taps with
    | error e => simp [h1, h2] at h
    | ok coefs =>
      cases h3 : s.memWrites (s.histBase c.toNat) (shiftIn window w) with
      | error e => simp [h1, h2, h3] at h
      | ok u =>
        simp only [h1, h2, h3, Except.ok.injEq, Prod.mk.injEq] at h
        obtain ⟨rfl, rfl⟩ := h
        exact ⟨window, coefs, h1, h2, (State.memWrites_ok h3).1, rfl⟩

/-- s1_step runs when the window and the coefficients are written (R185). -/
theorem State.s1Step_of {s : State} {c : BitVec 1} {window coefs : List Word}
    (h1 : s.memReads (s.histBase c.toNat) 8 = .ok window) (h2 : readCoefs s.s1Coef 0 256 = .ok coefs) (w : Word) :
    s.s1Step c w = .ok (s.setBufmem (s.bufmem.writeRun (s.histBase c.toNat) (shiftIn window w)),
      s1Filter s.params.bitMap coefs (shiftIn window w)) := by
  obtain ⟨hl, hb⟩ := State.memReads_ok.1 h1
  have hw : s.histBase c.toNat + 8 ≤ s.params.bufmemWords := by
    have := (hb 7 (by omega)).1
    omega
  unfold State.s1Step
  simp only [Config.histWords, Config.s1Taps, h1, h2]
  rw [State.memWrites_of_le (by rw [shiftIn_length hl]; exact hw)]

/-- Why s1_step is abandoned: a window word or a coefficient is unwritten, or a window word is outside BUFMEM. -/
theorem State.s1Step_error {s : State} {c : BitVec 1} {w : Word} {h : Halt} (e : s.s1Step c w = .error h) :
    (h = .raised .uninitRead ∧ ((∃ i < 8, s.bufmem.marked (s.histBase c.toNat + i) = false) ∨
        ∃ t < 256, s.s1Coef.marked t = false)) ∨
      ∃ a, h = .noWord a ∧ ∃ i < 8, s.params.bufmemWords ≤ s.histBase c.toNat + i := by
  cases h1 : s.memReads (s.histBase c.toNat) 8 with
  | error h' =>
    unfold State.s1Step at e
    simp only [Config.histWords, h1, Except.error.injEq] at e
    subst e
    obtain ⟨i, hi, ⟨hk, hm⟩ | ⟨hk, hm⟩⟩ := State.memReads_error h1
    · exact .inl ⟨hk, .inl ⟨i, hi, hm⟩⟩
    · exact .inr ⟨_, hk, i, hi, hm⟩
  | ok window =>
    cases h2 : readCoefs s.s1Coef 0 256 with
    | error h' =>
      unfold State.s1Step at e
      simp only [Config.histWords, Config.s1Taps, h1, h2, Except.error.injEq] at e
      subst e
      obtain ⟨hk, i, hi, hm⟩ := readCoefs_error h2
      exact .inl ⟨hk, .inr ⟨i, hi, by simpa using hm⟩⟩
    | ok coefs => rw [State.s1Step_of h1 h2] at e; cases e

/-! ## Stage 2 -/

theorem State.s2Output_error {s : State} {c : BitVec 1} {h : Halt} (e : s.s2Output c = .error h) :
    h = .raised .uninitRead ∧ ∃ k < s.ntaps.toNat, s.s2Coef.marked k = false := by
  unfold State.s2Output at e
  cases h1 : readCoefs s.s2Coef 0 s.ntaps.toNat with
  | error h' =>
    simp only [h1, Except.error.injEq] at e
    subst e
    simpa using readCoefs_error h1
  | ok coefs => simp [h1] at e

theorem State.s2Output_of {s : State} {c : BitVec 1} {coefs : List Word}
    (h : readCoefs s.s2Coef 0 s.ntaps.toNat = .ok coefs) :
    s.s2Output c = .ok (s2Filter s.s2Shift.toNat coefs (s.chan c).dl) := by
  unfold State.s2Output
  rw [h]

theorem State.cycleEnds_iff (s : State) (c : BitVec 1) :
    s.cycleEnds c = true ↔ (s.chan c).ph.toNat + 1 = s.decimation := by
  simp [State.cycleEnds]

@[simp] theorem State.s2Push_fst (s : State) (c : BitVec 1) (y : Word) :
    (s.s2Push c y).1 = s.setChan c (s.pushed c y) := rfl

/-! ## The controller -/

@[simp] theorem State.storeOutput_none (s : State) (c : BitVec 1) : s.storeOutput c none = s := rfl

@[simp] theorem State.storeOutput_some (s : State) (c : BitVec 1) (v : Word) :
    s.storeOutput c (some v) = s.setChan c { s.chan c with frm := v } := rfl

/-- The controller's move keeps everything but CSTATE, CH and WIX (R226). -/
theorem State.advance_eq (s : State) (c : BitVec 1) (j : BitVec 16) :
    s.advance c j =
      { s with
        cstate := (s.advance c j).cstate, ch := (s.advance c j).ch, wix := (s.advance c j).wix } := by
  unfold State.advance
  split_ifs <;> rfl

/-- The state after stage 1 and the shift of stage 2 (R185, R203). -/
def State.filtered (s : State) (c : BitVec 1) (w : Word) (window coefs : List Word) : State :=
  let s1 := s.setBufmem (s.bufmem.writeRun (s.histBase c.toNat) (shiftIn window w))
  s1.setChan c (s1.pushed c (s1Filter s.params.bitMap coefs (shiftIn window w)))

/-- What C_STEP's work answers once its channel word, its window and the stage-1 coefficients are read (R226). -/
theorem State.filterStep_of {s : State} {c : BitVec 1} {j : BitVec 16} {w : Word} {window coefs : List Word}
    (h1 : s.memRead (s.cur.toNat + c.toNat * s.decimation + j.toNat) = .ok w)
    (h2 : s.memReads (s.histBase c.toNat) 8 = .ok window) (h3 : readCoefs s.s1Coef 0 256 = .ok coefs) :
    s.filterStep c j =
      if s.cycleEnds c then
        match (s.filtered c w window coefs).s2Output c with
        | .error h => h.outcome (s.filtered c w window coefs)
        | .ok v => .next (((s.filtered c w window coefs).storeOutput c (some v)).advance c j)
      else .next ((s.filtered c w window coefs).advance c j) := by
  unfold State.filterStep
  simp only [h1, State.s1Step_of h2 h3 w, State.s2Push]
  by_cases hc : s.cycleEnds c = true
  · have hc' : (s.setBufmem (s.bufmem.writeRun (s.histBase c.toNat) (shiftIn window w))).cycleEnds c = true := hc
    rw [if_pos hc, hc', if_pos rfl]
    unfold State.s2Result
    change (match (match (s.filtered c w window coefs).s2Output c with
      | .error h => .error h | .ok v => .ok (some v) : Except Halt (Option Word)) with
      | .error h => h.outcome (s.filtered c w window coefs)
      | .ok r => .next (((s.filtered c w window coefs).storeOutput c r).advance c j)) = _
    cases (s.filtered c w window coefs).s2Output c <;> rfl
  · have hc' : (s.setBufmem (s.bufmem.writeRun (s.histBase c.toNat) (shiftIn window w))).cycleEnds c = false :=
      (Bool.not_eq_true _).mp hc
    rw [if_neg hc, hc']
    rfl

/-- Everything C_STEP's work can leave (R226): it is abandoned before anything is written, or in stage 2's output, or it is
complete. -/
theorem State.filterStep_next {s t : State} {c : BitVec 1} {j : BitVec 16} (h : s.filterStep c j = .next t) :
    t = s.raise .uninitRead ∨
      ∃ w window coefs, s.memRead (s.cur.toNat + c.toNat * s.decimation + j.toNat) = .ok w ∧
        s.memReads (s.histBase c.toNat) 8 = .ok window ∧ readCoefs s.s1Coef 0 256 = .ok coefs ∧
        ((s.cycleEnds c = true ∧ (s.filtered c w window coefs).s2Output c = .error (.raised .uninitRead) ∧
            t = (s.filtered c w window coefs).raise .uninitRead) ∨
         (s.cycleEnds c = true ∧ ∃ v, (s.filtered c w window coefs).s2Output c = .ok v ∧
            t = ((s.filtered c w window coefs).storeOutput c (some v)).advance c j) ∨
         (s.cycleEnds c = false ∧ t = (s.filtered c w window coefs).advance c j)) := by
  cases h1 : s.memRead (s.cur.toNat + c.toNat * s.decimation + j.toNat) with
  | error e =>
    unfold State.filterStep at h
    simp only [h1, Halt.outcome_next] at h
    obtain ⟨k, rfl, rfl⟩ := h
    rcases State.memRead_error h1 with ⟨h2, -⟩ | ⟨h2, -⟩ <;> cases h2
    exact .inl rfl
  | ok w =>
    cases h2 : s.s1Step c w with
    | error e =>
      unfold State.filterStep at h
      simp only [h1, h2, Halt.outcome_next] at h
      obtain ⟨k, rfl, rfl⟩ := h
      rcases State.s1Step_error h2 with ⟨h3, -⟩ | ⟨a, h3, -⟩ <;> cases h3
      exact .inl rfl
    | ok p =>
      obtain ⟨window, coefs, h3, h4, -, -⟩ := State.s1Step_ok (t := p.1) (y := p.2) h2
      refine .inr ⟨w, window, coefs, rfl, h3, h4, ?_⟩
      rw [State.filterStep_of h1 h3 h4] at h
      split_ifs at h with hc
      · cases h5 : (s.filtered c w window coefs).s2Output c with
        | error e =>
          obtain ⟨rfl, -⟩ := State.s2Output_error h5
          simp only [h5, Halt.outcome_next, Halt.raised.injEq] at h
          obtain ⟨k, rfl, rfl⟩ := h
          exact .inl ⟨hc, rfl, rfl⟩
        | ok v =>
          simp only [h5, Host.Outcome.next.injEq] at h
          exact .inr (.inl ⟨hc, v, rfl, h.symm⟩)
      · exact .inr (.inr ⟨by simpa using hc, (Host.Outcome.next.inj h).symm⟩)

end Sys2Proof.Machine
end

