-- ==== Sys2Proof/Laws/Load.lean ====
section
/-! SUPPORT. The pending sequence is read by `step` alone: loading another one commutes with every operation. -/

namespace Sys2Proof.Machine

/-- Load another sequence into the next state of an answer. -/
def loadResult (ws : List Word) : Result → Result
  | .next t => .next (t.load ws) | .fault f => .fault f | .refused r => .refused r

/-- Load another sequence into the state of a partial answer. -/
def loadOk (ws : List Word) : Except Halt State → Except Halt State
  | .ok t => .ok (t.load ws) | .error e => .error e

theorem unlessFaulted_load (s : State) (r : Result) (ws) :
    (s.load ws).unlessFaulted (loadResult ws r) = loadResult ws (s.unlessFaulted r) := by
  unfold State.unlessFaulted
  show (match s.faulted with | some k => _ | none => _) = _
  cases s.faulted <;> rfl

theorem consumerStep_load (s : State) (b) (r : Result) (ws) :
    (s.load ws).consumerStep b (loadResult ws r) = loadResult ws (s.consumerStep b r) := by
  unfold State.consumerStep
  rw [← unlessFaulted_load]
  congr 1
  show (if s.runState = .running ∧ b = true then _ else _) = _
  split_ifs <;> rfl

theorem outcome_load (h : Halt) (s : State) (ws) :
    h.outcome (s.load ws) = loadResult ws (h.outcome s) := by cases h <;> rfl

theorem memRead_load (s : State) (a ws) : (s.load ws).memRead a = s.memRead a := rfl

theorem memReads_load (s : State) (a n ws) : (s.load ws).memReads a n = s.memReads a n := by
  induction n generalizing a with
  | zero => rfl
  | succ n ih => simp only [State.memReads, memRead_load, ih]

theorem memWrite_load (s : State) (a v ws) : (s.load ws).memWrite a v = loadOk ws (s.memWrite a v) := by
  show (if a < s.params.bufmemWords then _ else _) = _
  unfold State.memWrite; split_ifs <;> rfl

theorem memWrites_load (s : State) (a vs ws) : (s.load ws).memWrites a vs = loadOk ws (s.memWrites a vs) := by
  induction vs generalizing s a with
  | nil => rfl
  | cons v vs ih =>
    simp only [State.memWrites, memWrite_load]
    cases s.memWrite a v with
    | error => rfl
    | ok t => exact ih t _

theorem setup_load (s : State) (ws) : (s.load ws).setup = loadResult ws s.setup := by
  by_cases h : s.setupCheck = .none
  · rw [State.setup_of_none h, State.setup_of_none (s := s.load ws) h]; rfl
  · rw [State.setup_of_error h, State.setup_of_error (s := s.load ws) h]; rfl

theorem advance_load (s : State) (c j ws) : (s.load ws).advance c j = (s.advance c j).load ws := by
  unfold State.advance
  show (if j ≠ 0#16 then _ else if c.toNat + 1 < s.numChannels then _ else _) = _
  split_ifs <;> rfl

theorem s1Step_load (s : State) (c w ws) :
    (s.load ws).s1Step c w = match s.s1Step c w with | .ok (t, y) => .ok (t.load ws, y) | .error e => .error e := by
  have e1 : (s.load ws).histBase c.toNat = s.histBase c.toNat := rfl
  have e2 : (s.load ws).s1Coef = s.s1Coef := rfl
  have e3 : (s.load ws).params = s.params := rfl
  unfold State.s1Step
  rw [e1, e2, e3, memReads_load]
  cases s.memReads (s.histBase c.toNat) Config.histWords with
  | error h => rfl
  | ok window =>
    dsimp only
    cases readCoefs s.s1Coef 0 Config.s1Taps with
    | error h => rfl
    | ok coefs =>
      dsimp only
      rw [memWrites_load]
      cases s.memWrites (s.histBase c.toNat) (shiftIn window w) with
      | error h => rfl
      | ok t => rfl

theorem filterStep_load (s : State) (c j ws) : (s.load ws).filterStep c j = loadResult ws (s.filterStep c j) := by
  have e1 : (s.load ws).cur = s.cur := rfl
  have e2 : (s.load ws).decimation = s.decimation := rfl
  unfold State.filterStep
  rw [e1, e2, memRead_load]
  cases s.memRead (s.cur.toNat + c.toNat * s.decimation + j.toNat) with
  | error h => exact outcome_load h s ws
  | ok w =>
    dsimp only
    rw [s1Step_load]
    cases s.s1Step c w with
    | error h => exact outcome_load h s ws
    | ok p =>
      obtain ⟨s1, y⟩ := p
      dsimp only
      have e3 : ((s1.load ws).s2Push c y).2 = (s1.s2Push c y).2 := rfl
      have e4 : ((s1.load ws).s2Push c y).1 = (s1.s2Push c y).1.load ws := rfl
      rw [e3, e4]
      cases (s1.s2Push c y).2 with
      | error h => exact outcome_load h _ ws
      | ok r =>
        have e5 : ((s1.s2Push c y).1.load ws).storeOutput c r = ((s1.s2Push c y).1.storeOutput c r).load ws := by cases r <;> rfl
        dsimp only
        rw [e5, advance_load]; rfl

/-- No operation reads or writes the pending sequence: running one commutes with loading (R292, R325). -/
theorem exec_load (i : Instr) (s : State) (ws : List Word) :
    exec i (s.load ws) = match exec i s with
      | .next t => .next (t.load ws) | .fault f => .fault f | .refused r => .refused r := by
  show _ = loadResult ws (exec i s)
  cases i with
  | mmioWr off v =>
    show execMmioWr off v _ = loadResult ws (execMmioWr off v s)
    have e1 : (s.load ws).params = s.params := rfl
    have e2 : (s.load ws).runState = s.runState := rfl
    unfold execMmioWr
    rw [← unlessFaulted_load, e1, e2]
    congr 1
    cases mmioReg s.params.s2TapsMax off <;> dsimp only <;> split_ifs <;> first | rfl | exact setup_load s ws
  | mmioRd off =>
    show execMmioRd off _ = loadResult ws (execMmioRd off s)
    have e1 : (s.load ws).params = s.params := rfl
    have e2 r : (s.load ws).readReg r = s.readReg r := by cases r <;> rfl
    unfold execMmioRd
    rw [← unlessFaulted_load, e1, e2]
    congr 1
    cases s.readReg (mmioReg s.params.s2TapsMax off) with
    | error h => exact outcome_load h s ws
    | ok v => rfl
  | portWord w =>
    show execPortWord w _ = loadResult ws (execPortWord w s)
    unfold execPortWord
    rw [← unlessFaulted_load]
    congr 1
    have e0 : (s.load ws).log (.port w) = (s.log (.port w)).load ws := rfl
    dsimp only
    rw [e0]
    generalize s.log (.port w) = u
    have e1 : (u.load ws).armed = u.armed := rfl
    rw [e1]
    split_ifs
    · rw [State.producerHandler_eq, State.producerHandler_eq]
      have e1 : (u.load ws).tears = u.tears := rfl
      have e2 : (u.load ws).fillAddr = u.fillAddr := rfl
      have e3 : (u.load ws).params = u.params := rfl
      have e4 : (u.load ws).count = u.count := rfl
      have e5 : (u.load ws).slotFull = u.slotFull := rfl
      rw [e1, e2, e3, e4, e5]
      split_ifs <;> rfl
    · rfl
  | cTake =>
    show execCTake _ = loadResult ws (execCTake s)
    unfold execCTake; rw [← consumerStep_load]; rfl
  | cDeint =>
    show execCDeint _ = loadResult ws (execCDeint s)
    unfold execCDeint
    rw [← consumerStep_load]
    congr 1
    have : (s.load ws).deinterleave = loadOk ws s.deinterleave := by
      have e1 : (s.load ws).numChannels = s.numChannels := rfl
      have e2 : (s.load ws).cur = s.cur := rfl
      have e3 : (s.load ws).regionLen = s.regionLen := rfl
      have e4 : (s.load ws).decimation = s.decimation := rfl
      unfold State.deinterleave
      rw [e1, e2, e3, e4, memReads_load]
      split_ifs
      · cases s.memReads s.cur.toNat s.regionLen with
        | error h => rfl
        | ok b => exact memWrites_load _ _ _ _
      · rfl
    rw [this]
    cases s.deinterleave with
    | error h => exact outcome_load h s ws
    | ok b => rfl
  | cStep c j =>
    show execCStep c j _ = loadResult ws (execCStep c j s)
    unfold execCStep
    rw [← consumerStep_load, ← filterStep_load]; rfl
  | cEmit =>
    show execCEmit _ = loadResult ws (execCEmit s)
    unfold execCEmit; rw [← consumerStep_load]; rfl
  | reset => rfl

end Sys2Proof.Machine
end

