-- ==== Sys2Proof/Laws/PerInstr.lean ====
section
/-! SUPPORT. Families of statements about every operation, one lemma per constructor. -/

/-- The words of a well-formed operation, at the head of any sequence, decode to it and leave the rest to the decoder. -/
def Sys2Proof.Laws.RoundTrip.Statement (i : Sys2Proof.Instr) : Prop :=
  i.wellFormed = true → ∀ rest : List Sys2Proof.Word,
    Sys2Proof.decodeAll (Sys2Proof.encode i ++ rest) = (Sys2Proof.decodeAll rest).after i

namespace Sys2Proof.Laws.RoundTrip

theorem mmioWr (off : BitVec 12) (data : Word) : Statement (.mmioWr off data) :=
  fun h rest => decodeAll_payload (decodeOp_mmioWr h) data rest

theorem mmioRd (off : BitVec 12) : Statement (.mmioRd off) :=
  fun h rest => decodeAll_complete (decodeOp_mmioRd h) rest

theorem portWord (w : Word) : Statement (.portWord w) :=
  fun _ rest => decodeAll_payload decodeOp_portWord w rest

theorem cTake : Statement .cTake := fun _ rest => decodeAll_complete decodeOp_cTake rest

theorem cDeint : Statement .cDeint := fun _ rest => decodeAll_complete decodeOp_cDeint rest

theorem cStep (c : BitVec 1) (j : BitVec 16) : Statement (.cStep c j) :=
  fun _ rest => decodeAll_complete (decodeOp_cStep c j) rest

theorem cEmit : Statement .cEmit := fun _ rest => decodeAll_complete decodeOp_cEmit rest

theorem reset : Statement .reset := fun _ rest => decodeAll_complete decodeOp_reset rest

end Sys2Proof.Laws.RoundTrip
end

