-- ==== Sys2Proof/Laws/Running.lean ====
section
/-! SUPPORT. What the invariant gives while the block runs: the geometry of the buffer region, that a filter step finds
every word it reads, and how runs of operations and written marks compose. -/

namespace Sys2Proof.Machine

/-! ## Written marks and bounds -/

/-- A write inside the bound keeps the canonical form and the bound. -/
theorem Memory.bounded_write {m : Memory} {n a : Nat} (v : Word) (h : m.wf ∧ ∀ x ∈ m, x.1 < n) (ha : a < n) :
    (m.write a v).wf ∧ ∀ x ∈ m.write a v, x.1 < n := by
  refine ⟨Memory.wf_write h.1 a v, fun x hx => ?_⟩
  rcases Memory.mem_write _ _ _ _ hx with rfl | hx
  · exact ha
  · exact h.2 x hx

/-- A run of writes inside the bound keeps the canonical form and the bound. -/
theorem Memory.bounded_writeRun {m : Memory} {n a : Nat} (vs : List Word) (h : m.wf ∧ ∀ x ∈ m, x.1 < n)
    (ha : a + vs.length ≤ n) : (m.writeRun a vs).wf ∧ ∀ x ∈ m.writeRun a vs, x.1 < n := by
  refine ⟨Memory.wf_writeRun h.1 a vs, fun x hx => ?_⟩
  rcases Memory.mem_writeRun _ _ _ _ hx with hx | hx
  · omega
  · exact h.2 x hx

/-- A write clears no mark (R74). -/
theorem Memory.marked_write_of {m : Memory} {a b : Nat} {v : Word} (h : m.marked b = true) :
    (m.write a v).marked b = true := by
  rw [Memory.marked_write]
  simp [h]

/-- A run of writes clears no mark (R74). -/
theorem Memory.marked_writeRun_of {m : Memory} {a b : Nat} {vs : List Word} (h : m.marked b = true) :
    (m.writeRun a vs).marked b = true := by
  rw [Memory.marked_writeRun]
  simp [h]

/-! ## The buffer region (R6, R73) -/

/-- What a passed SETUP_CHECK says of the region: its sizes, that it lies in BUFMEM, that both regions lie before the
windows, and that they do not overlap. -/
theorem State.geometry {s : State} (h : s.setupCheck = .none) (hp : s.params.wf) :
    (s.numChannels = 1 ∨ s.numChannels = 2) ∧ 1 ≤ s.decimation ∧ 1 ≤ s.regionLen ∧ s.regionLen < 2 ^ 18 ∧
    s.bufBase.toNat + 2 * s.regionLen + s.numChannels * 8 ≤ s.params.bufmemWords ∧ s.params.bufmemWords ≤ 2 ^ 32 ∧
    (∀ r : BitVec 1, s.bufBase.toNat ≤ s.regionBase r ∧
      s.regionBase r + s.regionLen ≤ s.bufBase.toNat + 2 * s.regionLen) ∧
    (∀ r : BitVec 1, s.regionBase (1#1 - r) + s.regionLen ≤ s.regionBase r ∨
      s.regionBase r + s.regionLen ≤ s.regionBase (1#1 - r)) := by
  obtain ⟨h1, h2, h3, h4, h5, h6⟩ := State.setupCheck_none.1 h
  have hb := State.regionLen_bounds h
  rw [State.reqSize_eq] at h6
  refine ⟨h1, by omega, hb.1, by omega, by omega, hp.2.2.2, fun r => ?_, fun r => ?_⟩
  · rcases bit_cases r with rfl | rfl <;> simp [State.regionBase] <;> omega
  · rcases bit_cases r with rfl | rfl <;> simp [State.regionBase]

/-- In FILT, every word the enabled filter step reads is in BUFMEM and written: its channel word and its window. -/
theorem State.Inv.filter_reads {s : State} (h : s.Inv) (hr : s.runState = .running) (hf : s.faulted = none)
    (hc : s.cstate = .filt) :
    (∃ w, s.memRead (s.cur.toNat + s.ch.toNat * s.decimation + s.wix.toNat) = .ok w) ∧
    ∃ window, s.memReads (s.histBase s.ch.toNat) 8 = .ok window := by
  obtain ⟨hs, hrun⟩ := h
  obtain ⟨hchk, r50, ho, hw⟩ := hrun hr hf
  obtain ⟨g1, g2, g3, g4, g6, g7, g8, g9⟩ := State.geometry hchk hs.params
  obtain ⟨e1, e2⟩ := r50.e hc
  have hcv := r50.d.2 (by rw [hc]; decide)
  have hidx : s.ch.toNat * s.decimation + s.wix.toNat < s.regionLen := by
    have : s.ch.toNat * s.decimation ≤ (s.numChannels - 1) * s.decimation := Nat.mul_le_mul_right _ (by omega)
    have : (s.numChannels - 1) * s.decimation + s.decimation = s.regionLen := by
      show _ = s.numChannels * s.decimation
      rw [Nat.sub_mul]
      have := Nat.le_mul_of_pos_left s.decimation (show 0 < s.numChannels by omega)
      omega
    omega
  constructor
  · obtain ⟨w, hw'⟩ := (Memory.marked_iff _ _).1 (hw.held hcv _ hidx)
    refine ⟨w, State.memRead_ok.2 ⟨?_, by rw [add_assoc]; exact hw'⟩⟩
    have := ho.held hcv
    have := g8 (if s.slotFull = true then s.active else 1#1 - s.active)
    omega
  · apply State.memReads_of_marked
    · intro i hi
      rw [State.histBase_eq]
      omega
    · intro i hi
      have := hw.windows (s.ch.toNat * 8 + i) (by show _ < s.numChannels * 8; omega)
      rw [State.histBase_eq] at this ⊢
      rw [← this]
      congr 1
      omega

/-- In FILT, the phase of the channel counts its words (R50 c), and stage 2 gives an output on the last of them. -/
theorem State.Inv.filter_phase {s : State} (h : s.Inv) (hr : s.runState = .running) (hf : s.faulted = none)
    (hc : s.cstate = .filt) :
    (s.chan s.ch).ph.toNat = s.decimation - 1 - s.wix.toNat ∧ (s.cycleEnds s.ch = true ↔ s.wix = 0#16) := by
  obtain ⟨hchk, r50, ho, hw⟩ := h.running hr hf
  obtain ⟨e1, e2⟩ := r50.e hc
  have hph := r50.c s.ch
  rw [if_pos ⟨hc, rfl⟩] at hph
  refine ⟨hph, ?_⟩
  rw [State.cycleEnds_iff, hph]
  constructor
  · intro h
    apply BitVec.eq_of_toNat_eq
    show s.wix.toNat = 0
    omega
  · intro h
    rw [h] at e2 ⊢
    show s.decimation - 1 - 0 + 1 = _
    omega

/-! ## Runs of operations -/

/-- A run of two parts is the second part's run from where the first one ends. -/
theorem runOps_append (a b : List Instr) (s : State) :
    runOps (a ++ b) s = match runOps a s with
      | .next t => runOps b t
      | .fault f => .fault f
      | .refused r => .refused r := by
  induction a generalizing s with
  | nil => rfl
  | cons i a ih =>
    simp only [List.cons_append, runOps]
    cases exec i s with
    | next t => exact ih t
    | fault f => rfl
    | refused r => rfl

/-- A run of two parts that ends passed through the end of the first part. -/
theorem runOps_append_next {a b : List Instr} {s t : State} (h : runOps (a ++ b) s = .next t) :
    ∃ u, runOps a s = .next u ∧ runOps b u = .next t := by
  rw [runOps_append] at h
  cases ha : runOps a s with
  | next u => rw [ha] at h; exact ⟨u, rfl, h⟩
  | fault f => rw [ha] at h; cases h
  | refused r => rw [ha] at h; cases h

/-! ## Final runs (R325) -/

/-- `recordsNoFault` says what its name says: every state the run passes through has FAULTED none. -/
theorem recordsNoFault_iff {n : Nat} {s : State} :
    recordsNoFault n s = true ↔ ∀ k ≤ n, ∀ u, runSteps k s = .next u → u.faulted = none := by
  induction n generalizing s with
  | zero =>
    simp only [recordsNoFault, beq_iff_eq, Nat.le_zero, forall_eq]
    exact ⟨fun h u e => by cases e; exact h, fun h => h s rfl⟩
  | succ n ih =>
    simp only [recordsNoFault, Bool.and_eq_true, beq_iff_eq]
    constructor
    · rintro ⟨h0, h1⟩ k hk u e
      cases k with
      | zero => cases e; exact h0
      | succ k =>
        simp only [runSteps] at e
        cases hs : step s with
        | next t => rw [hs] at h1 e; exact ih.1 h1 k (by omega) u e
        | fault f => rw [hs] at e; cases e
        | refused r => rw [hs] at e; cases e
    · intro h
      refine ⟨h 0 (Nat.zero_le _) s rfl, ?_⟩
      cases hs : step s with
      | next t => exact ih.2 fun k hk u e => h (k + 1) (by omega) u (by simp only [runSteps, hs]; exact e)
      | fault f => rfl
      | refused r => rfl

/-- A run that passes through a state with a model fault is not final, whatever RESET clears later (R325, C10). -/
theorem not_finalRun_of_faulted {s t u : State} {is : List Instr} {n : Nat} (hn : n ≤ is.length)
    (h : runSteps n s = .next u) (hf : u.faulted ≠ none) : ¬FinalRun s is t :=
  fun r => hf (recordsNoFault_iff.1 r.noFault n hn u h)

/-- A final run has ended (R325). -/
theorem FinalRun.ends {s t : State} {is : List Instr} (h : FinalRun s is t) : RunEnds s is.length t :=
  ⟨h.ran, .inl h.usedUp⟩

/-- The last state of a final run records no model fault. -/
theorem FinalRun.faulted {s t : State} {is : List Instr} (h : FinalRun s is t) : t.faulted = none :=
  recordsNoFault_iff.1 h.noFault is.length (Nat.le_refl _) t h.ran

end Sys2Proof.Machine
end

