-- ==== Sys2Proof/Tests/Slice0.lean ====
section
/-! SUPPORT. Small tests of the model, their expected values from spec/ (95_test_vectors.md unless said otherwise), and for
every obligation with hypotheses a named state and operands that meet them. -/

namespace Sys2Proof.Tests

-- Check one theorem at a time: a thread per kernel evaluation would need more memory than there is.
set_option Elab.async false

open Sys2Proof.Machine

/-! ## Helpers -/

/-- The listed words at the addresses from `a` up. -/
def memOf (a : Nat) : List Word → Memory
  | [] => []
  | w :: ws => (a, w) :: memOf (a + 1) ws

/-- The popcount filter of 95: 1 for the ages 0 to 31, 0 for the others. -/
def popcountWords : List Word := List.replicate 32 1#32 ++ List.replicate 224 0#32

/-- S1_COEF with the popcount filter. -/
def popcountCoefs : Memory := memOf 0 popcountWords

/-- The history pattern P. -/
def pat : Word := 0x55555555#32

/-- IDLE with C channels, decimation D, shift `sh`, one tap per listed stage-2 coefficient, the popcount filter, and the
buffer at `base`. -/
def configured (c d sh base : Nat) (s2 : List Word) : State :=
  { State.reset with
    channels := BitVec.ofNat 4 c, decim := BitVec.ofNat 16 d, s2Shift := BitVec.ofNat 6 sh
    ntaps := BitVec.ofNat 8 s2.length, bufBase := BitVec.ofNat 32 base
    bufWords := BitVec.ofNat 32 (2 * c * d + 8 * c)
    s1Coef := popcountCoefs, s2Coef := memOf 0 s2 }

/-- The next state of an answer (reset where there is none). -/
def nextOf : Result → State
  | .next t => t
  | .fault _ => State.reset
  | .refused _ => State.reset

/-- The answer is a next state that satisfies `p`. -/
def nextHas (r : Result) (p : State → Bool) : Bool :=
  match r with
  | .next t => p t
  | .fault _ => false
  | .refused _ => false

/-- The answer is this fault. -/
def faultIs (r : Result) (f : Fault) : Bool :=
  match r with
  | .next _ => false
  | .fault g => g == f
  | .refused _ => false

/-- The answer is this refusal. -/
def refusedIs (r : Result) (f : Refusal) : Bool :=
  match r with
  | .next _ => false
  | .fault _ => false
  | .refused g => g == f

theorem next_of_nextHas {r : Result} (h : nextHas r (fun _ => true) = true) : r = .next (nextOf r) := by
  cases r <;> simp_all [nextHas, nextOf]

theorem nextOf_of_nextHas {r : Result} {p : State → Bool} (h : nextHas r p = true) :
    r = .next (nextOf r) ∧ p (nextOf r) = true := by
  cases r <;> simp_all [nextHas, nextOf]

/-- Just after START. -/
def started (c d sh base : Nat) (s2 : List Word) : State :=
  nextOf (exec (.mmioWr 0x000#12 1#32) (configured c d sh base s2))

/-- The block of P7 (C = 1, D = 2, NT = 3) just after START. -/
def running : State := started 1 2 0 0 [1, 2, 3]

/-- P7 after its first two port words: the region 0 to 1 is published. -/
def published : State :=
  { running with
    bufmem := memOf 0 [3, 1] ++ memOf 4 (List.replicate 8 pat)
    active := 1, count := 2, slotFull := true, slotAddr := 0 }

/-- P7 with the published region taken and the filtering at word `j`, the phase as R50 (c) wants it. -/
def filtering (j : Nat) : State :=
  { published with
    slotFull := false, curValid := true, cstate := .filt, wix := BitVec.ofNat 16 j
    chan0 := { dl := List.replicate 128 0#32, ph := BitVec.ofNat 16 (1 - j), frm := 0#32 } }

/-- P2 (C = 2, D = 2, shift 1, base 4) with its region filled and taken, before C_DEINT. -/
def held2 : State :=
  { started 2 2 1 4 [1, 1] with
    bufmem := memOf 4 [0xAAAAAAAA, 0x00000003, 0xFFFFFFFF, 0x0000FFFF] ++ memOf 12 (List.replicate 16 pat)
    active := 1, count := 4, slotAddr := 4, curValid := true, cur := 4, cstate := .deint }

/-- P2 at the last filter step of a channel: channel words deinterleaved, phase 1. -/
def lastStep2 (c : BitVec 1) : State :=
  { held2 with
    bufmem := memOf 4 [0x00000001, 0xFFFF00FF, 0xFFFF0001, 0xFFFF00FF] ++ memOf 12 (List.replicate 16 pat)
    cstate := .filt, ch := c, wix := 0
    chan0 := { dl := List.replicate 128 0#32, ph := if c = 0 then 1 else 0, frm := 12#32 }
    chan1 := { dl := List.replicate 128 0#32, ph := if c = 0 then 0 else 1, frm := 20#32 } }

/-! ## WellFormed refuses -/

theorem test_misaligned_write_is_ill_formed : (Instr.mmioWr 0x002#12 0#32).wellFormed = false := by decide

theorem test_misaligned_read_is_ill_formed : (Instr.mmioRd 0xFFD#12).wellFormed = false := by decide

/-- An ill-formed term's words are refused by the decoder (R107). -/
theorem test_ill_formed_words_are_invalid :
    decodeAll (encode (.mmioWr 0x002#12 0#32)) = .invalid 0 ∧ decodeAll (encode (.mmioRd 0xFFD#12)) = .invalid 0 := by
  decide

/-! ## Decoding (95 §3; the words written out from R101 to R106) -/

theorem test_decode_mmio_wr : decodeAll [0b00010000000000000000011111111100#32, 0x00000000#32] =
    .operations [.mmioWr 0x7FC#12 0#32] := by decide

theorem test_decode_mmio_rd : decodeAll [0b00100000000000000000111111111100#32] = .operations [.mmioRd 0xFFC#12] := by
  decide

theorem test_decode_port_word : decodeAll [0b00110000000000000000000000000000#32, 0xAAAAAAAA#32] =
    .operations [.portWord 0xAAAAAAAA#32] := by decide

theorem test_decode_c_take : decodeAll [0b10000000000000000000000000000000#32] = .operations [.cTake] := by decide

theorem test_decode_c_deint : decodeAll [0b10010000000000000000000000000000#32] = .operations [.cDeint] := by decide

theorem test_decode_c_step : decodeAll [0b10100000000000011111111111111111#32, 0b10100000000000000000000000000101#32] =
    .operations [.cStep 1#1 65535#16, .cStep 0#1 5#16] := by decide

theorem test_decode_c_emit : decodeAll [0b10110000000000000000000000000000#32] = .operations [.cEmit] := by decide

theorem test_decode_reset : decodeAll [0b11110000000000000000000000000000#32] = .operations [.reset] := by decide

/-- 95 §3.2: every reason a word is INVALID. -/
theorem test_decode_invalid :
    [0x00000000#32, 0x40000000#32, 0x70000000#32, 0xC0000000#32, 0xE0000000#32, 0x20000006#32, 0x20001004#32,
      0x80000001#32, 0xF8000000#32, 0x30000001#32, 0xA0020000#32].all (fun w => decodeAll [w] == .invalid 0) = true ∧
    decodeAll [0x20000004#32, 0x10000008#32] = .invalid 1 ∧ decodeAll [0x20000004#32, 0x30000000#32] = .invalid 1 := by
  decide

/-- R111, R112, 95 P2: assembly lines and their words. -/
theorem test_assemble_lines :
    assemble [.cfg 2 2 1, .s2coef 0 1, .start, .port 3, .consume 2 2] =
      some [0x10000008#32, 0x00020102#32, 0x10000800#32, 1#32, 0x10000000#32, 1#32, 0x30000000#32, 3#32, 0x80000000#32,
        0x90000000#32, 0xA0000001#32, 0xA0000000#32, 0xA0010001#32, 0xA0010000#32, 0xB0000000#32] := by decide

/-! ## The opcode table's numbering, evaluated -/

theorem test_table_words : decodeTableWord 64 0x0006000110000008 = some (.mmioWr 0x008#12 0x00060001#32) ∧
    decodeTableWord 32 0x10000008 = some (.mmioWr 0x008#12 0#32) ∧ decodeTableWord 32 0x20000004 = some (.mmioRd 0x004#12) ∧
    decodeTableWord 64 0x0000000130000000 = some (.portWord 1#32) ∧ decodeTableWord 32 0x80000000 = some .cTake ∧
    decodeTableWord 32 0x90000000 = some .cDeint ∧ decodeTableWord 32 0xA0010005 = some (.cStep 1#1 5#16) ∧
    decodeTableWord 32 0xB0000000 = some .cEmit ∧ decodeTableWord 32 0xF0000000 = some .reset ∧
    decodeTableWord 32 0x20000006 = none := by decide

/-- The first step after reset runs the placed operation: R253 allows the write, R291 drops the port word, R221 leaves the
consumer steps stuck. -/
theorem test_first_step_runs_the_placed_operation :
    nextHas (step (State.reset.withFetchWord 64 0x0006000110000008)) (fun t => t.decim == 6 && t.stimulus == []) = true ∧
    nextHas (step (State.reset.withFetchWord 32 0x20000004)) (fun t => t.hostReads == [0]) = true ∧
    nextHas (step (State.reset.withFetchWord 64 0x0000000130000000)) (fun t => t.history == [.reset, .port 1]) = true ∧
    nextHas (step (State.reset.withFetchWord 32 0xF0000000)) (fun t => t.history == [.reset, .reset]) = true ∧
    [0x80000000, 0x90000000, 0xA0000000, 0xB0000000].all
      (fun w => faultIs (step (State.reset.withFetchWord 32 w)) .notEnabled) = true ∧
    refusedIs (step (State.reset.withFetchWord 32 0x50000000)) (.invalidSequence 0) = true := by decide

/-! ## One step of each operation -/

/-- 95 §2.1 b: reserved CFG bits are dropped. -/
theorem test_mmio_wr_drops_reserved_bits :
    nextHas (exec (.mmioWr 0x008#12 0xFFFFFFFF#32) State.reset) (fun t => t.cfgWord == 0xFFFF3F0F#32) = true := by decide

/-- 95 §2.4 g, h: a buffer that ends at the last word starts, one that ends behind it does not. -/
theorem test_start_checks_the_range :
    nextHas (exec (.mmioWr 0x000#12 1#32) (configured 1 1 0 54 [1])) (fun t => t.statusWord == 0x00000001#32) = true ∧
    nextHas (exec (.mmioWr 0x000#12 1#32) (configured 1 1 0 55 [1]))
      (fun t => t.statusWord == 0x00000052#32 && t.bufmem == []) = true := by decide +kernel

/-- 95 §2.5: STATUS with a published buffer. -/
theorem test_mmio_rd_status : nextHas (exec (.mmioRd 0x004#12) published) (fun t => t.hostReads == [0x00000C01#32]) = true := by
  decide +kernel

/-- 95 §2.1 g, f: an unwritten coefficient raises UNINIT_READ, an unmapped offset reads 0. -/
theorem test_mmio_rd_unwritten_and_unmapped :
    nextHas (exec (.mmioRd 0x400#12) State.reset) (fun t => t.faulted == some .uninitRead) = true ∧
    nextHas (exec (.mmioRd 0xA00#12) State.reset) (fun t => t.hostReads == [0#32]) = true := by decide

/-- 95 §5.1: the last word of a fill goes to index 0 and publishes the region. -/
theorem test_port_word_publishes :
    nextHas (exec (.portWord 7#32) { started 1 6 0 0 [1] with count := 1 })
      (fun t => t.bufmem.read 0 == some 7#32 && t.count == 6 && t.slotFull && t.slotAddr == 0 && t.active == 1
        && t.history == [.reset, .port 7, .publish 0]) = true := by decide +kernel

/-- 95 P4b: a port word into the held region raises TEAR and writes nothing. -/
theorem test_port_word_tears :
    nextHas (exec (.portWord 7#32) { held2 with active := 0, slotFull := true, slotAddr := 8 })
      (fun t => t.faulted == some .tear && t.bufmem == held2.bufmem && t.history == [.reset, .port 7]) = true := by
  decide +kernel

/-- 95 P4b: C_TAKE takes the slot's address. -/
theorem test_c_take :
    nextHas (exec .cTake published)
      (fun t => t.cstate == .deint && t.curValid && t.cur == 0 && !t.slotFull && t.history == [.reset, .take 0]) = true := by
  decide +kernel

/-- 95 §8.4: C_TAKE with the slot empty is stuck. -/
theorem test_c_take_stuck : faultIs (exec .cTake running) .notEnabled = true := by decide +kernel

/-- 95 P2: the held region after C_DEINT. -/
theorem test_c_deint :
    nextHas (exec .cDeint held2)
      (fun t => [4, 5, 6, 7].map t.bufmem.read ==
          [some 0x00000001#32, some 0xFFFF00FF#32, some 0xFFFF0001#32, some 0xFFFF00FF#32]
        && t.cstate == .filt && t.ch == 0 && t.wix == 1) = true := by decide +kernel

/-- 95 §8.2: the state after the first of two filter steps. -/
theorem test_c_step_mid_buffer :
    nextHas (exec (.cStep 0#1 1#16) (filtering 1))
      (fun t => t.statusWord == 0x00000A01#32 && t.wix == 0 && t.chan0.ph == 1 && t.chan0.dl.head? == some 1#32
        && t.chan0.frm == 0 && t.bufmem.read 4 == some 1#32 && t.bufmem.read 5 == some pat) = true := by decide +kernel

/-- 95 §7.2 d: 2 * 1 + 1 * 2 + 0 * 3 = 4, the first frame of P7, from the delay line [1, 0, ...]. -/
theorem test_c_step_last_word :
    nextHas (exec (.cStep 0#1 0#16)
        { filtering 0 with chan0 := { dl := 1#32 :: List.replicate 127 0#32, ph := 1, frm := 0 } })
      (fun t => t.chan0.frm == 4 && t.chan0.ph == 0 && t.chan0.dl.take 3 == [2, 1, 0] && t.cstate == .emit) = true := by
  decide +kernel

/-- 95 P2: the frame of two channels. -/
theorem test_c_emit :
    nextHas (exec .cEmit { lastStep2 1 with cstate := .emit })
      (fun t => t.history == [.reset, .frame [12, 20]] && t.cstate == .await && !t.curValid && t.cur == 4 && t.ch == 0) =
      true := by decide +kernel

/-- 95 §9: RESET clears a model fault and every register, and is recorded. -/
theorem test_reset :
    nextHas (exec .reset { published with faulted := some .tear })
      (fun t => t.faulted == none && t.statusWord == 0 && t.cfgWord == 0 && t.bufmem == [] && t.s1Coef == []
        && t.history == [.reset, .reset]) = true := by decide +kernel

/-- A failed START, a dropped port word and a RESET, as in 95 P3. -/
def setupErrorOps : List Instr := [.mmioWr 0x000#12 1#32, .portWord 1#32, .reset]

/-- Two port words with C = D = 1 overrun the slot, as in 95 P4a, and a RESET clears the model fault. -/
def overrunOps : List Instr :=
  [.mmioWr 0x008#12 0x00010001#32, .mmioWr 0x00C#12 1#32, .mmioWr 0x014#12 10#32, .mmioWr 0x000#12 1#32,
    .portWord 1#32, .portWord 3#32, .reset]

/-- R325: a run with a setup error is final, and its history is the one 95 P3 gives. -/
theorem test_setup_error_run_is_final :
    ∃ t, FinalRun (State.reset.load (encodeAll setupErrorOps)) setupErrorOps t ∧
      t.history = [.reset, .port 1, .reset] := by
  obtain ⟨h1, h2⟩ := nextOf_of_nextHas (r := runSteps 3 (State.reset.load (encodeAll setupErrorOps)))
    (p := fun t => t.stimulus == [] && t.history == [.reset, .port 1, .reset]) (by decide +kernel)
  simp only [Bool.and_eq_true, beq_iff_eq] at h2
  exact ⟨_, ⟨.inl ⟨Params.default, _, by decide, rfl⟩, by decide, h1, h2.1, by decide +kernel⟩, h2.2⟩

/-- R325: a run that recorded a model fault is not final, although RESET has cleared it and the program is used up. -/
theorem test_reset_after_overrun_is_not_final :
    nextHas (runSteps 7 (State.reset.load (encodeAll overrunOps))) (fun t => t.stimulus == [] && t.faulted == none) = true ∧
    ∀ t, ¬FinalRun (State.reset.load (encodeAll overrunOps)) overrunOps t :=
  ⟨by decide +kernel, fun _ h => absurd h.noFault (by decide +kernel)⟩

/-- 95 §6.1 f to i: the age of every bit. -/
theorem test_s1_filter_ages :
    s1Filter .unipolar (7#32 :: List.replicate 254 0#32 ++ [BitVec.ofInt 32 (-3)])
      (0x80000000#32 :: List.replicate 6 0#32 ++ [1#32]) = 4#32 ∧
    s1Filter .bipolar (7#32 :: List.replicate 254 0#32 ++ [BitVec.ofInt 32 (-3)])
      (0x80000000#32 :: List.replicate 7 0#32) = 10#32 ∧
    s1Filter .unipolar (List.replicate 31 0#32 ++ 1#32 :: List.replicate 224 0#32) (1#32 :: List.replicate 7 0#32) = 1#32 :=
  by decide +kernel

/-- 95 §7.1 a, d, h, i, j, l: floor, saturation after the shift. -/
theorem test_s2_filter_corners :
    s2Filter 1 [1#32] [BitVec.ofInt 32 (-5)] = BitVec.ofInt 32 (-3) ∧
    s2Filter 0 [0x7FFFFFFF#32, 0x7FFFFFFF#32] [0x7FFFFFFF#32, 0x7FFFFFFF#32] = 0x7FFFFFFF#32 ∧
    s2Filter 0 [0x80000000#32] [0x7FFFFFFF#32] = 0x80000000#32 ∧
    s2Filter 2 [3#32, BitVec.ofInt 32 (-2), 1#32] [10#32, 20#32, BitVec.ofInt 32 (-30)] = BitVec.ofInt 32 (-10) ∧
    s2Filter 62 [0x7FFFFFFF#32, 0x7FFFFFFF#32] [0x7FFFFFFF#32, 0x7FFFFFFF#32] = 1#32 ∧
    s2Filter 1 [2#32, 2#32] [0x7FFFFFFF#32, 0x7FFFFFFF#32] = 0x7FFFFFFF#32 := by decide +kernel

/-- 95 §4 g and the block with D = 2. -/
theorem test_deint2 :
    deint2 1 [0x12345678#32, 0x9ABCDEF0#32] = [0x46EC46EC#32, 0x1416BEBC#32] ∧
    deint2 2 [0x12345678#32, 0x9ABCDEF0#32, 0x0F0F0F0F#32, 0xF0F0F0F0#32] =
      [0x46EC46EC#32, 0x3333CCCC#32, 0x1416BEBC#32, 0x3333CCCC#32] ∧
    inter2 1 [0x46EC46EC#32, 0x1416BEBC#32] = [0x12345678#32, 0x9ABCDEF0#32] := by decide +kernel

/-! ## States that meet the invariant -/

theorem memOf_wf (a : Nat) (ws : List Word) :
    (memOf a ws).wf ∧ ∀ x ∈ memOf a ws, a ≤ x.1 ∧ x.1 < a + ws.length := by
  induction ws generalizing a with
  | nil => exact ⟨List.Pairwise.nil, by simp [memOf]⟩
  | cons w ws ih =>
    obtain ⟨h1, h2⟩ := ih (a + 1)
    refine ⟨List.Pairwise.cons (fun x hx => ?_) h1, fun x hx => ?_⟩
    · have := h2 x hx
      show a < x.1
      omega
    · rcases List.mem_cons.1 hx with rfl | hx
      · simp
      · have := h2 x hx
        simp only [List.length_cons]
        omega

theorem memOf_read (a k : Nat) (ws : List Word) (h : k < ws.length) : (memOf a ws).read (a + k) = some ws[k] := by
  induction ws generalizing a k with
  | nil => simp at h
  | cons w ws ih =>
    cases k with
    | zero => simp [memOf, Memory.read]
    | succ k =>
      have := ih (a + 1) k (by simpa using h)
      rw [show a + 1 + k = a + (k + 1) by omega] at this
      simpa [memOf, Memory.read] using this

/-- Every coefficient is written where the memories list words from 0 up. -/
theorem coefsWritten_of {s : State} (k1 k2 : List Word) (h1 : s.s1Coef = memOf 0 k1 ∧ k1.length = 256)
    (h2 : s.s2Coef = memOf 0 k2 ∧ k2.length = s.ntaps.toNat) : s.coefsWritten := by
  refine ⟨fun t ht => ?_, fun k hk => ?_⟩
  · have ht : t < k1.length := by rw [h1.2]; exact ht
    have := memOf_read 0 t k1 ht
    rw [Nat.zero_add] at this
    rw [Memory.marked, h1.1, this]
    rfl
  · have hk : k < k2.length := by rw [h2.2]; exact hk
    have := memOf_read 0 k k2 hk
    rw [Nat.zero_add] at this
    rw [Memory.marked, h2.1, this]
    rfl

/-- The invariant but for the form of S1_COEF, as a check that evaluates. -/
def invCheck (s : State) : Bool :=
  decide (s.params.wf) &&
  decide (s.bufmem.wf ∧ ∀ x ∈ s.bufmem, x.1 < s.params.bufmemWords) &&
  decide (s.s2Coef.wf ∧ ∀ x ∈ s.s2Coef, x.1 < s.params.s2TapsMax) &&
  decide (s.chan0.dl.length = s.params.s2TapsMax ∧ s.chan1.dl.length = s.params.s2TapsMax) &&
  decide (s.err ≠ .none → s.runState = .fault) &&
  (decide (s.runState ≠ .running) ||
    decide (s.setupCheck = .none) &&
    decide (1 ≤ s.count.toNat ∧ s.count.toNat ≤ s.regionLen) &&
    decide (s.slotFull = true → s.slotAddr.toNat = s.regionBase (1#1 - s.active)) &&
    decide (∀ c : BitVec 1, (s.chan c).ph.toNat =
      if s.cstate = .filt ∧ c = s.ch then s.decimation - 1 - s.wix.toNat else 0) &&
    decide (s.curValid = true ↔ s.cstate ≠ .await) &&
    decide (s.cstate = .filt → s.ch.toNat < s.numChannels ∧ s.wix.toNat < s.decimation) &&
    decide (s.curValid = true → s.cur.toNat = s.regionBase (if s.slotFull then s.active else 1#1 - s.active)) &&
    decide (s.curValid = true → s.slotFull = true → s.count.toNat = s.regionLen) &&
    decide (∀ i < s.numChannels * Config.histWords, s.bufmem.marked (s.histBase 0 + i) = true) &&
    decide (∀ i < s.regionLen, s.count.toNat ≤ i → s.bufmem.marked (s.regionBase s.active + i) = true) &&
    decide (s.slotFull = true → ∀ i < s.regionLen, s.bufmem.marked (s.regionBase (1#1 - s.active) + i) = true) &&
    decide (s.curValid = true → ∀ i < s.regionLen, s.bufmem.marked (s.cur.toNat + i) = true))

theorem inv_of_check {s : State} (ws : List Word) (hw : s.s1Coef = memOf 0 ws ∧ ws.length ≤ 256)
    (h : invCheck s = true) : s.Inv := by
  simp only [invCheck, Bool.and_eq_true, Bool.or_eq_true, decide_eq_true_eq] at h
  obtain ⟨⟨⟨⟨⟨h1, h2⟩, h4⟩, h5⟩, h6⟩, h7⟩ := h
  have h3 : s.s1Coef.wf ∧ ∀ x ∈ s.s1Coef, x.1 < Config.s1Taps := by
    rw [hw.1]
    refine ⟨(memOf_wf 0 ws).1, fun x hx => ?_⟩
    have := ((memOf_wf 0 ws).2 x hx).2
    show x.1 < 256
    omega
  refine ⟨⟨h1, h2, h3, h4, h5, h6⟩, fun hr _ => ?_⟩
  rcases h7 with h7 | ⟨⟨⟨⟨⟨⟨⟨⟨⟨⟨⟨a, b⟩, c⟩, d⟩, e⟩, f⟩, g⟩, i⟩, j⟩, k⟩, l⟩, m⟩
  · exact absurd hr h7
  · exact ⟨a, ⟨b, c, d, e, f⟩, ⟨g, i⟩, ⟨j, fun n hn hl => k n hl hn, l, m⟩⟩

theorem reset_inv : State.reset.Inv := inv_of_check [] (by decide) (by decide +kernel)

theorem running_inv : running.Inv := inv_of_check popcountWords (by decide +kernel) (by decide +kernel)

theorem published_inv : published.Inv := inv_of_check popcountWords (by decide +kernel) (by decide +kernel)

theorem filtering_inv : (filtering 1).Inv ∧ (filtering 0).Inv :=
  ⟨inv_of_check popcountWords (by decide +kernel) (by decide +kernel), inv_of_check popcountWords (by decide +kernel) (by decide +kernel)⟩

theorem lastStep2_inv : (lastStep2 0).Inv ∧ (lastStep2 1).Inv :=
  ⟨inv_of_check popcountWords (by decide +kernel) (by decide +kernel), inv_of_check popcountWords (by decide +kernel) (by decide +kernel)⟩

theorem published_s1Coef (k : Nat) (h : k < popcountWords.length) :
    published.s1Coef.read k = some popcountWords[k] := by
  have := memOf_read 0 k popcountWords h
  rw [Nat.zero_add] at this
  rw [show published.s1Coef = memOf 0 popcountWords by decide +kernel, this]

/-- An operation that answers a next state in a state that meets the invariant, the block running with no model fault. -/
theorem running_steps :
    running.runState = .running ∧ running.faulted = none ∧
    exec (.portWord 1#32) running = .next (nextOf (exec (.portWord 1#32) running)) :=
  ⟨by decide +kernel, by decide +kernel, next_of_nextHas (by decide +kernel)⟩

/-! ## Witnesses: states and operands that meet the hypotheses of each obligation -/

/-- One operation of each kind, at the ends of its fields. -/
def someOps : List Instr :=
  [.mmioWr 0xFFC#12 0xFFFFFFFF#32, .mmioRd 0x000#12, .portWord 0#32, .cTake, .cDeint, .cStep 1#1 65535#16, .cEmit, .reset]

theorem witness_decode_of_encode : ∀ i ∈ someOps, i.wellFormed = true := by decide

theorem witness_encode_of_decode :
    decodeAll (encodeAll someOps) = .operations someOps ∧ decodeAll [0x50000000#32] = .invalid 0 ∧
    decodeAll [0x80000000#32, 0x30000000#32] = .invalid 1 := by decide

/-- One word for each reason of R107, a sequence that ends where a payload is due, and an INVALID pending sequence. -/
theorem witness_invalid_words :
    decodeOp 0xE0000000#32 = none ∧ decodeOp 0xF0000001#32 = none ∧ decodeOp 0x20001000#32 = none ∧
    decodeOp 0x10000001#32 = none ∧ decodeOp 0xA0020000#32 = none ∧ (decodeOp 0xA001FFFF#32).isSome = true ∧
    (0x3FFFFFFF#32).extractLsb' 28 4 ∈ [0x1#4, 0x3#4] ∧ decodeAll [0x30000000#32] = .invalid 0 ∧
    decodeAll (State.reset.load [0x80000000#32, 0x10000000#32]).stimulus = .invalid 1 := by decide

/-- The ends of the ranges the assembler accepts (R111). -/
theorem witness_assembler_ranges :
    assemble [.wr (.byte 0xFFC) 1] = some [0x10000FFC#32, 1#32] ∧ assemble [.rd (.byte 0)] = some [0x20000000#32] ∧
    assemble [.rd (.byte 0x1000)] = none ∧ assemble [.wr (.byte 2) 1] = none ∧
    assemble [.step 1 65535] = some [0xA001FFFF#32] ∧ assemble [.step 2 0] = none ∧ assemble [.step 0 65536] = none := by
  decide

theorem witness_consume : allSome ((AsmLine.consume 2 2).expand) = some (consumeOps 2 2) ∧
    consumeOps 2 2 = [.cTake, .cDeint, .cStep 0 1, .cStep 0 0, .cStep 1 1, .cStep 1 0, .cEmit] := by decide

/-- StepRunsTheDecodedOperation and LoadedProgramRunsItsOperationsInOrder. -/
theorem witness_step : decodeAll (State.reset.load (encodeAll someOps)).stimulus = .operations someOps ∧
    State.reset.stimulus = [] := by decide

/-- The legal parameters, IDLE and no model fault: HostWriteEffect, HostReadEffect, WrittenRegistersReadBack,
InvariantHoldsAfterReset, ReqWordsReadsTheSizingFunction. -/
theorem witness_idle : State.reset.params.wf ∧ State.reset.faulted = none ∧ State.reset.runState = .idle ∧
    Params.default.wf := by decide

/-- HostWriteEffect at the ends of its ranges: the first and last coefficients, and the unmapped offsets around them. -/
theorem witness_host_write_ranges :
    nextHas (exec (.mmioWr 0x400#12 5#32) State.reset) (fun t => t.s1Coef == [(0, 5#32)]) = true ∧
    nextHas (exec (.mmioWr 0x7FC#12 5#32) State.reset) (fun t => t.s1Coef == [(255, 5#32)]) = true ∧
    nextHas (exec (.mmioWr 0x800#12 5#32) State.reset) (fun t => t.s2Coef == [(0, 5#32)]) = true ∧
    nextHas (exec (.mmioWr 0x9FC#12 5#32) State.reset) (fun t => t.s2Coef == [(127, 5#32)]) = true ∧
    [0x01C#12, 0x3FC#12, 0xA00#12, 0xFFC#12, 0x004#12, 0x018#12].all
      (fun o => nextHas (exec (.mmioWr o 5#32) State.reset) (fun t => t == State.reset)) = true := by decide +kernel

/-- HostReadEffect at the ends of its ranges. -/
theorem witness_host_read_ranges :
    let s := { State.reset with s1Coef := [(0, 5#32), (255, 6#32)], s2Coef := [(0, 7#32), (127, 8#32)] }
    [(0x400#12, 5#32), (0x7FC#12, 6#32), (0x800#12, 7#32), (0x9FC#12, 8#32), (0x01C#12, 0#32), (0x3FC#12, 0#32),
      (0xA00#12, 0#32), (0xFFC#12, 0#32), (0x000#12, 0#32)].all
      (fun p => nextHas (exec (.mmioRd p.1) s) (fun t => t.hostReads == [p.2])) = true ∧
    [0x404#12, 0x7F8#12, 0x804#12, 0x9F8#12].all
      (fun o => nextHas (exec (.mmioRd o) s) (fun t => t.faulted == some .uninitRead)) = true := by decide +kernel

theorem witness_config_locked : running.runState ≠ .idle ∧ running.faulted = none ∧ Instr.portWord 1#32 ≠ .reset ∧
    exec (.portWord 1#32) running = .next (nextOf (exec (.portWord 1#32) running)) :=
  ⟨by decide +kernel, by decide +kernel, by decide, running_steps.2.2⟩

/-- The three examples of R109. -/
theorem witness_packing :
    ({ State.reset with channels := 1, decim := 6 } : State).cfgWord = 0x00060001#32 ∧
    ({ State.reset with runState := .running, active := 1 } : State).statusWord = 0x00000801#32 ∧
    ({ State.reset with runState := .fault, err := .badChannels } : State).statusWord = 0x00000012#32 := by decide

/-- Each setup error where it begins to apply (95 §2.4). -/
theorem witness_setup_errors :
    (configured 0 1 0 0 [1]).setupCheck = .badChannels ∧ (configured 3 0 0 0 []).setupCheck = .badChannels ∧
    (configured 1 0 0 0 []).setupCheck = .badDecim ∧ (configured 1 1 0 0 []).setupCheck = .badS2Taps ∧
    ({ configured 1 1 0 0 [1] with ntaps := 129 } : State).setupCheck = .badS2Taps ∧
    ({ configured 1 1 0 0 [1] with ntaps := 128 } : State).setupCheck = .none ∧
    ({ configured 1 1 0 0 [1] with bufWords := 9 } : State).setupCheck = .bufSizeMismatch ∧
    (configured 1 1 0 55 [1]).setupCheck = .bufRange ∧ (configured 1 1 0 54 [1]).setupCheck = .none := by decide +kernel

theorem witness_failed_start : State.reset.faulted = none ∧ State.reset.runState = .idle ∧
    (1#32).getLsbD 0 = true ∧ State.reset.setupCheck ≠ .none := by decide

theorem witness_successful_start : (configured 2 2 1 4 [1, 1]).faulted = none ∧
    (configured 2 2 1 4 [1, 1]).runState = .idle ∧ (1#32).getLsbD 0 = true ∧
    (configured 2 2 1 4 [1, 1]).setupCheck = .none := by decide +kernel

/-- BootSequenceStartsTheBlock, with the most taps and the buffer at the end of BUFMEM. -/
theorem witness_boot : State.reset.Inv ∧ State.reset.faulted = none ∧ State.reset.runState = .idle ∧
    ((0x00060001#32).extractLsb' 0 4).toNat = 1 ∧ ((0x00060001#32).extractLsb' 16 16).toNat = 6 ∧
    ((128#32).extractLsb' 0 8).toNat = 128 ∧ State.reset.params.s2TapsMax = 128 ∧
    (20#32).toNat = 2 * 1 * 6 + 1 * 8 ∧ (44#32).toNat + (20#32).toNat ≤ State.reset.params.bufmemWords :=
  ⟨reset_inv, by decide, by decide, by decide, by decide, by decide, by decide, by decide, by decide⟩

/-- PortWordEffect: a state for each clause. -/
theorem witness_port_word :
    (State.reset.faulted = none ∧ State.reset.runState ≠ .running) ∧
    (let s := { held2 with active := 0 };
      s.faulted = none ∧ s.runState = .running ∧ s.curValid = true ∧ s.cur.toNat = s.regionBase s.active) ∧
    (running.faulted = none ∧ running.runState = .running ∧ running.curValid = false ∧
      running.fillAddr < running.params.bufmemWords ∧ running.count ≠ 1 ∧ running.slotFull = false) ∧
    (let s := { running with count := 1 };
      s.faulted = none ∧ s.runState = .running ∧ s.curValid = false ∧ s.fillAddr < s.params.bufmemWords) ∧
    (let s := { published with count := 1 };
      s.faulted = none ∧ s.runState = .running ∧ s.curValid = false ∧ s.fillAddr < s.params.bufmemWords ∧
      s.slotFull = true) := by decide +kernel

/-- ProducerLeavesTheConsumerUntouched, PortWordFrame, ProducerWritesOnlyTheActiveRegion (its published and its held
region), RunningBlockWritesOnlyItsBufferRegion, EveryStepKeepsTheInvariant's operations. -/
theorem witness_producer :
    (published.Inv ∧ published.faulted = none ∧ published.runState = .running ∧ published.slotFull = true ∧
      exec (.portWord 1#32) published = .next (nextOf (exec (.portWord 1#32) published))) ∧
    ((filtering 1).Inv ∧ (filtering 1).faulted = none ∧ (filtering 1).runState = .running ∧
      (filtering 1).curValid = true ∧
      exec (.portWord 1#32) (filtering 1) = .next (nextOf (exec (.portWord 1#32) (filtering 1)))) :=
  ⟨⟨published_inv, by decide +kernel, by decide +kernel, by decide +kernel, next_of_nextHas (by decide +kernel)⟩,
    filtering_inv.1, by decide +kernel, by decide +kernel, by decide +kernel, next_of_nextHas (by decide +kernel)⟩

/-- FillWritesDescendingIndices for a whole fill and for a part of one. -/
theorem witness_fill : running.Inv ∧ running.faulted = none ∧ running.runState = .running ∧
    running.count.toNat = running.regionLen ∧
    ¬(running.curValid = true ∧ running.cur.toNat = running.regionBase running.active) ∧
    [1#32, 3#32].length = running.regionLen ∧ running.slotFull = false ∧ [1#32].length < running.regionLen :=
  ⟨running_inv, by decide +kernel, by decide +kernel, by decide +kernel, by decide +kernel, by decide +kernel,
    by decide +kernel, by decide +kernel⟩

/-- The block with C = D = NT = 1 just after START. -/
def small : State := started 1 1 0 0 [1]

theorem small_starts : StartsIn small :=
  ⟨configured 1 1 0 0 [1], 1#32, by decide +kernel, next_of_nextHas (by decide +kernel), by decide +kernel⟩

theorem small_inv : small.Inv := inv_of_check popcountWords (by decide +kernel) (by decide +kernel)

/-- The run of `small` that consumes one buffer, and what it ends in. -/
theorem small_consumes :
    nextHas (runOps (.portWord 3#32 :: consumeOps 1 1) small)
      (fun t => t.faulted == none && t.cstate == .await && !t.slotFull && publishAddrs t.history == [0#32]
        && frames t.history == [[2#32]]) = true := by decide +kernel

/-- OnePublishPerRegionOfPortWords, PublishedAddressesAlternate and EveryPublishedBufferGivesOneFrame: a run that consumes
one buffer. -/
theorem witness_run_of_one_buffer :
    ∃ t, StartsIn small ∧ RunsTo small (.portWord 3#32 :: consumeOps 1 1) t ∧ t.faulted = none ∧ t.cstate = .await ∧
      t.slotFull = false ∧ publishAddrs t.history = [0#32] ∧ frames t.history = [[2#32]] := by
  obtain ⟨h1, h2⟩ := nextOf_of_nextHas small_consumes
  simp only [Bool.and_eq_true, beq_iff_eq, Bool.not_eq_true'] at h2
  obtain ⟨⟨⟨⟨a, b⟩, c⟩, d⟩, e⟩ := h2
  exact ⟨_, small_starts, ⟨by decide, h1⟩, a, b, c, d, e⟩

/-- RealTimeContractIsExactlyNoOverrunNoTear: a run that keeps the contract, one that overruns (P4a), one that tears (P4b). -/
theorem witness_real_time :
    let kept := [Instr.portWord 1#32, .cTake]
    let overrun := [Instr.portWord 1#32, .portWord 3#32]
    let tear := [Instr.portWord 1#32, .cTake, .portWord 3#32, .portWord 7#32]
    StartsIn small ∧ small.Inv ∧
    (RunsTo small kept (nextOf (runOps kept small)) ∧ (nextOf (runOps kept small)).faulted = none) ∧
    (RunsTo small overrun (nextOf (runOps overrun small)) ∧
      (nextOf (runOps overrun small)).faulted = some .slotOverrun) ∧
    (RunsTo small tear (nextOf (runOps tear small)) ∧ (nextOf (runOps tear small)).faulted = some .tear) :=
  ⟨small_starts, small_inv, ⟨⟨by decide, next_of_nextHas (by decide +kernel)⟩, by decide +kernel⟩,
    ⟨⟨by decide, next_of_nextHas (by decide +kernel)⟩, by decide +kernel⟩,
    ⟨⟨by decide, next_of_nextHas (by decide +kernel)⟩, by decide +kernel⟩⟩

/-- Deint2WordsAndBits and DeinterleavingIsABijection. -/
theorem witness_block : [1#32, 2#32, 3#32, 4#32].length = 2 * 2 ∧ ([] : List Word).length = 2 * 0 := by decide

/-- DeinterleaveStepEffect: one channel, two channels, and two channels with an unwritten word in the region. -/
theorem witness_deinterleave :
    (let s := { filtering 0 with cstate := .deint, chan0 := Channel.zero Params.default };
      s.faulted = none ∧ s.runState = .running ∧ s.cstate = .deint ∧ s.channels = 1#4) ∧
    (held2.faulted = none ∧ held2.runState = .running ∧ held2.cstate = .deint ∧ held2.channels = 2#4 ∧
      held2.cur.toNat + held2.regionLen ≤ held2.params.bufmemWords ∧
      (let b := [0xAAAAAAAA#32, 0x00000003#32, 0xFFFFFFFF#32, 0x0000FFFF#32];
        b.length = held2.regionLen ∧ ∀ i (h : i < b.length), held2.bufmem.read (held2.cur.toNat + i) = some b[i])) ∧
    (let s := { held2 with bufmem := memOf 4 [1, 2, 3] };
      s.cur.toNat + s.regionLen ≤ s.params.bufmemWords ∧ 3 < s.regionLen ∧ s.bufmem.read (s.cur.toNat + 3) = none) := by
  decide +kernel

/-- The bits at the ends of R9's words. -/
theorem witness_arithmetic : (ce 0x40000000#32).getLsbD 15 = true ∧ (co 0x80000000#32).getLsbD 15 = true ∧
    (ce 1#32).getLsbD 0 = true ∧ popcount 0xFFFFFFFF#32 = 32 ∧ asr (-1) 63 = -1 ∧
    sat32 (2 ^ 31) = 0x7FFFFFFF#32 ∧ sat32 (-(2 ^ 31) - 1) = 0x80000000#32 := by decide +kernel

/-- Stage1FilterIsTheSaturatedSum and Stage1DoesNotSaturateBelowTheBound, at the bound of R185. -/
theorem witness_stage1 :
    (List.replicate 256 0x007FFFFF#32).length = 256 ∧
    (∀ c ∈ List.replicate 256 0x007FFFFF#32, -(2 ^ 23) < c.toInt ∧ c.toInt < 2 ^ 23) ∧
    (∃ t < 256, (memOf 0 (List.replicate 255 1#32)).read t = none) ∧
    (popcountWords.length = 256 ∧
      ∀ t (h : t < popcountWords.length), published.s1Coef.read t = some popcountWords[t]) :=
  ⟨by decide +kernel, fun c hc => by rw [List.eq_of_mem_replicate hc]; decide, ⟨255, by decide, by decide +kernel⟩,
    by decide +kernel, published_s1Coef⟩

/-- WindowIsAFifoOfEightWords and AllZeroInputGivesTheIdleOutput, after exactly 8 words (95 §6.2). -/
theorem witness_window :
    (List.replicate 8 pat).length = 8 ∧ (List.replicate 8 0#32).length = 8 ∧ 8 ≤ (List.replicate 8 0#32).length ∧
    (List.replicate 256 1#32).length = 256 ∧
    s1Filter .unipolar (List.replicate 256 1#32) ((List.replicate 8 0#32).foldl shiftIn (List.replicate 8 pat)) = 0#32 ∧
    s1Filter .unipolar (List.replicate 256 1#32) ((List.replicate 7 0#32).foldl shiftIn (List.replicate 8 pat)) = 16#32 ∧
    s1Filter .bipolar (List.replicate 256 1#32) ((List.replicate 8 0#32).foldl shiftIn (List.replicate 8 pat)) =
      BitVec.ofInt 32 (-256) := by decide +kernel

/-- Stage2OutputIsTheShiftedSaturatedSum: every coefficient written, and the last one not (95 §8.3 b). -/
theorem witness_stage2_output :
    (∀ k < running.ntaps.toNat, running.s2Coef.read k = some (BitVec.ofNat 32 (k + 1))) ∧
    (∃ k < running.ntaps.toNat, ({ running with s2Coef := memOf 0 [1, 2] } : State).s2Coef.read k = none) :=
  ⟨by decide +kernel, ⟨2, by decide +kernel, by decide +kernel⟩⟩

/-- Stage2PushEffect inside a cycle and at its end, and Stage2OutputCadence. -/
theorem witness_stage2_push :
    (running.chan0.dl.length = running.params.s2TapsMax ∧ 1 ≤ running.params.s2TapsMax ∧
      running.chan0.ph.toNat < running.decim.toNat ∧ running.chan0.ph.toNat + 1 ≠ running.decim.toNat ∧
      running.chan0.ph = 0#16 ∧ 1 ≤ running.decim.toNat) ∧
    ((filtering 0).chan0.dl.length = (filtering 0).params.s2TapsMax ∧
      (filtering 0).chan0.ph.toNat < (filtering 0).decim.toNat ∧
      (filtering 0).chan0.ph.toNat + 1 = (filtering 0).decim.toNat) := by decide +kernel

theorem witness_delay_depth : [1#32, 2#32].length ≤ 2 := by decide

/-- ConsumerStepsRunExactlyWhenEnabled and ModelFaultStopsEveryAgentUntilReset (95 §8.1): each consumer step enabled once,
and none after a model fault. -/
theorem witness_enabled :
    published.faulted = none ∧
    nextHas (exec .cTake published) (fun _ => true) = true ∧ nextHas (exec .cDeint held2) (fun _ => true) = true ∧
    nextHas (exec (.cStep 0#1 1#16) (filtering 1)) (fun _ => true) = true ∧
    faultIs (exec (.cStep 0#1 0#16) (filtering 1)) .notEnabled = true ∧
    nextHas (exec .cEmit { filtering 0 with cstate := .emit }) (fun _ => true) = true ∧
    ({ published with faulted := some .tear } : State).faulted = some .tear ∧
    faultIs (exec .cTake { published with faulted := some .tear }) (.modelFaulted .tear) = true := by decide +kernel

theorem witness_take : published.faulted = none ∧ published.runState = .running ∧ published.cstate = .await ∧
    published.slotFull = true := by decide +kernel

/-- FilterStepEffect: a word that is not the last, the last of a channel, and the last of the last channel. -/
theorem witness_filter_step :
    ((filtering 1).Inv ∧ (filtering 1).faulted = none ∧ (filtering 1).runState = .running ∧
      (filtering 1).cstate = .filt ∧ 0#1 = (filtering 1).ch ∧ 1#16 = (filtering 1).wix ∧ (filtering 1).coefsWritten) ∧
    ((lastStep2 0).Inv ∧ (lastStep2 0).faulted = none ∧ (lastStep2 0).runState = .running ∧
      (lastStep2 0).cstate = .filt ∧ 0#1 = (lastStep2 0).ch ∧ 0#16 = (lastStep2 0).wix ∧ (lastStep2 0).coefsWritten ∧
      (0#1).toNat + 1 < (lastStep2 0).channels.toNat) ∧
    ((lastStep2 1).Inv ∧ (lastStep2 1).faulted = none ∧ (lastStep2 1).runState = .running ∧
      (lastStep2 1).cstate = .filt ∧ 1#1 = (lastStep2 1).ch ∧ 0#16 = (lastStep2 1).wix ∧ (lastStep2 1).coefsWritten ∧
      ¬(1#1).toNat + 1 < (lastStep2 1).channels.toNat) :=
  ⟨⟨filtering_inv.1, by decide +kernel, by decide +kernel, by decide +kernel, by decide +kernel, by decide +kernel,
      coefsWritten_of popcountWords [1, 2, 3] (by decide +kernel) (by decide +kernel)⟩,
    ⟨lastStep2_inv.1, by decide +kernel, by decide +kernel, by decide +kernel, by decide +kernel, by decide +kernel,
      coefsWritten_of popcountWords [1, 1] (by decide +kernel) (by decide +kernel), by decide +kernel⟩,
    ⟨lastStep2_inv.2, by decide +kernel, by decide +kernel, by decide +kernel, by decide +kernel, by decide +kernel,
      coefsWritten_of popcountWords [1, 1] (by decide +kernel) (by decide +kernel), by decide +kernel⟩⟩

/-- UnwrittenCoefficientFaultsTheFilterStep (95 §8.3 a, b). -/
theorem witness_unwritten_coefficient :
    (let s := { filtering 1 with s1Coef := memOf 0 (List.replicate 255 1#32) };
      s.Inv ∧ s.faulted = none ∧ s.runState = .running ∧ s.cstate = .filt ∧ ∃ t < 256, s.s1Coef.read t = none) ∧
    (let s := { filtering 0 with s2Coef := memOf 0 [1, 2] };
      s.Inv ∧ s.faulted = none ∧ s.runState = .running ∧ s.cstate = .filt ∧ (∀ t < 256, s.s1Coef.read t ≠ none) ∧
      s.wix = 0#16 ∧ ∃ k < s.ntaps.toNat, s.s2Coef.read k = none) :=
  ⟨⟨inv_of_check (List.replicate 255 1#32) (by decide +kernel) (by decide +kernel), by decide +kernel, by decide +kernel, by decide +kernel,
      ⟨255, by decide, by decide +kernel⟩⟩,
    ⟨inv_of_check popcountWords (by decide +kernel) (by decide +kernel), by decide +kernel, by decide +kernel, by decide +kernel, by decide +kernel,
      by decide +kernel, ⟨2, by decide +kernel, by decide +kernel⟩⟩⟩

/-- EmitStepEffect for one and for two channels. -/
theorem witness_emit :
    (let s := { filtering 0 with cstate := .emit };
      s.faulted = none ∧ s.runState = .running ∧ s.cstate = .emit ∧ s.channels = 1#4) ∧
    (let s := { lastStep2 1 with cstate := .emit };
      s.faulted = none ∧ s.runState = .running ∧ s.cstate = .emit ∧ s.channels = 2#4) := by decide +kernel

/-- ConsumerStepsFrame and EventHistoryOnlyGrows: each consumer step answers a next state. -/
theorem witness_consumer_frame :
    exec .cTake published = .next (nextOf (exec .cTake published)) ∧
    exec .cDeint held2 = .next (nextOf (exec .cDeint held2)) ∧
    exec (.cStep 0#1 1#16) (filtering 1) = .next (nextOf (exec (.cStep 0#1 1#16) (filtering 1))) ∧
    exec .cEmit { lastStep2 1 with cstate := .emit } =
      .next (nextOf (exec .cEmit { lastStep2 1 with cstate := .emit })) :=
  ⟨next_of_nextHas (by decide +kernel), next_of_nextHas (by decide +kernel), next_of_nextHas (by decide +kernel),
    next_of_nextHas (by decide +kernel)⟩

/-- ConsumingABufferEmitsItsFrame: P7's first buffer. -/
theorem witness_consuming :
    let b := [3#32, 1#32]
    let k1 := popcountWords
    let k2 := [1#32, 2#32, 3#32]
    let window (_ : Nat) := List.replicate 8 pat
    published.Inv ∧ published.faulted = none ∧ published.runState = .running ∧ published.cstate = .await ∧
    published.slotFull = true ∧
    (b.length = published.regionLen ∧
      ∀ i (h : i < b.length), published.bufmem.read (published.slotAddr.toNat + i) = some b[i]) ∧
    (k1.length = 256 ∧ ∀ k (h : k < k1.length), published.s1Coef.read k = some k1[k]) ∧
    (k2.length = published.ntaps.toNat ∧ ∀ k (h : k < k2.length), published.s2Coef.read k = some k2[k]) ∧
    (∀ c < published.channels.toNat,
      (window c).length = 8 ∧ ∀ k < 8, published.bufmem.read (published.histBase c + k) = (window c)[k]?) :=
  ⟨published_inv, by decide +kernel, by decide +kernel, by decide +kernel, by decide +kernel, by decide +kernel,
    ⟨by decide +kernel, published_s1Coef⟩, by decide +kernel, by decide +kernel⟩

/-- EveryStepKeepsTheInvariant: a step from a state that meets it. -/
theorem witness_step_invariant :
    let s := State.reset.load (encodeAll [.portWord 1#32])
    s.Inv ∧ step s = .next (nextOf (step s)) :=
  ⟨inv_of_check [] (by decide) (by decide +kernel), next_of_nextHas (by decide +kernel)⟩

/-- ReachedRunningStatesMeetR50: the boot sequence of C = D = 1. -/
theorem witness_reached_running :
    let words := encodeAll [.mmioWr 0x008#12 0x00010001#32, .mmioWr 0x00C#12 1#32, .mmioWr 0x014#12 10#32,
      .mmioWr 0x000#12 1#32]
    let t := nextOf (runSteps 4 ((State.resetWith Params.default).load words))
    Params.default.wf ∧ runSteps 4 ((State.resetWith Params.default).load words) = .next t ∧ t.runState = .running ∧
    t.faulted = none :=
  ⟨by decide, next_of_nextHas (by decide +kernel), by decide +kernel, by decide +kernel⟩

/-- OnlyResetLeavesRunningOrFault: RUNNING, FAULT, and IDLE left by START. -/
theorem witness_run_state :
    exec (.portWord 1#32) running = .next (nextOf (exec (.portWord 1#32) running)) ∧ running.runState = .running ∧
    (let s := { State.reset with runState := .fault, err := .badDecim };
      exec (.portWord 1#32) s = .next (nextOf (exec (.portWord 1#32) s)) ∧ s.runState = .fault) ∧
    (exec (.mmioWr 0x000#12 1#32) State.reset = .next (nextOf (exec (.mmioWr 0x000#12 1#32) State.reset)) ∧
      State.reset.runState = .idle ∧ (nextOf (exec (.mmioWr 0x000#12 1#32) State.reset)).runState ≠ .idle) :=
  ⟨running_steps.2.2, by decide +kernel, ⟨next_of_nextHas (by decide +kernel), by decide +kernel⟩,
    next_of_nextHas (by decide +kernel), by decide +kernel, by decide +kernel⟩

/-- OnlyResetClearsWrittenMarks: a marked word of each memory, and an operation that is no RESET. -/
theorem witness_marks : published.bufmem.marked 0 = true ∧ published.s1Coef.marked 255 = true ∧
    published.s2Coef.marked 2 = true ∧ Instr.cTake ≠ .reset ∧
    exec .cTake published = .next (nextOf (exec .cTake published)) :=
  ⟨by decide +kernel, by decide +kernel, by decide +kernel, by decide, next_of_nextHas (by decide +kernel)⟩

/-- RunningBlockWritesOnlyItsBufferRegion: a word on each side of the region of P2, which is 4 to 27. -/
theorem witness_region : (lastStep2 0).Inv ∧ (lastStep2 0).faulted = none ∧ (lastStep2 0).runState = .running ∧
    Instr.cStep 0#1 0#16 ≠ .reset ∧
    exec (.cStep 0#1 0#16) (lastStep2 0) = .next (nextOf (exec (.cStep 0#1 0#16) (lastStep2 0))) ∧
    3 < (lastStep2 0).bufBase.toNat ∧ (lastStep2 0).bufBase.toNat + (lastStep2 0).reqSize = 28 :=
  ⟨lastStep2_inv.1, by decide +kernel, by decide +kernel, by decide, next_of_nextHas (by decide +kernel),
    by decide +kernel, by decide +kernel⟩

/-- OnlyUnwrittenCoefficientsAreReadUninitialised: the host reads S2_COEF[3], which no tap uses and nothing wrote. -/
theorem witness_uninit_read : running.Inv ∧ running.faulted = none ∧ running.runState = .running ∧
    running.coefsWritten ∧ exec (.mmioRd 0x80C#12) running = .next (nextOf (exec (.mmioRd 0x80C#12) running)) ∧
    (nextOf (exec (.mmioRd 0x80C#12) running)).faulted = some .uninitRead :=
  ⟨running_inv, by decide +kernel, by decide +kernel,
    coefsWritten_of popcountWords [1, 2, 3] (by decide +kernel) (by decide +kernel),
    next_of_nextHas (by decide +kernel), by decide +kernel⟩

/-- ResetStateSummary: RESET of a running block. -/
theorem witness_reset_summary : published.params.wf ∧ exec .reset published = .next (nextOf (exec .reset published)) :=
  ⟨by decide +kernel, next_of_nextHas (by decide +kernel)⟩

end Sys2Proof.Tests
end

section
/-! PROOFS. The arithmetic primitives of R9: what each reads as, and the statement about them. -/

namespace Sys2Proof.Machine

/-- Saturation is the nearest value of i32: `v` clamped between the two ends of the range (R9). -/
theorem sat32_toInt (v : Int) : (sat32 v).toInt = max (-(2 ^ 31)) (min (2 ^ 31 - 1) v) := by
  unfold sat32
  split_ifs with above below
  · rw [BitVec.toInt_ofInt_eq_self] <;> omega
  · rw [BitVec.toInt_ofInt_eq_self] <;> omega
  · rw [BitVec.toInt_ofInt_eq_self] <;> omega

/-- `asr v n` is the floor of `v / 2^n`: the multiple of `2^n` it stands for is at most `v`, and the next one is above. -/
theorem asr_floor (v : Int) (n : Nat) : asr v n * 2 ^ n ≤ v ∧ v < (asr v n + 1) * 2 ^ n := by
  have divisor_pos : (0 : Int) < 2 ^ n := by positivity
  exact ⟨Int.ediv_mul_le v divisor_pos.ne', Int.lt_ediv_add_one_mul_self v divisor_pos⟩

/-- The recursion of `popcount` counts the set positions, here for the low `n` bits of a word. -/
theorem countOnes_eq_length_filter (w : Word) (n : Nat) :
    countOnes w n = ((List.range n).filter (fun k => w.getLsbD k)).length := by
  induction n with
  | zero => rfl
  | succ n ih =>
    rw [countOnes, ih, List.range_succ, List.filter_append, List.length_append]
    cases h : w.getLsbD n <;> simp [h]

/-- A word made of `n` packed bits has bit `k` equal to `f k`. -/
theorem ofNat_packBits_getLsbD (f : Nat → Bool) {n k : Nat} (h : k < n) :
    (BitVec.ofNat n (packBits f n)).getLsbD k = f k := by
  rw [BitVec.getLsbD_ofNat, packBits_testBit f h, decide_eq_true h, Bool.true_and]

/-- Bit `k` of the compressed even bits is bit `2k` of the word (R9). -/
theorem ce_getLsbD (w : Word) {k : Nat} (h : k < 16) : (ce w).getLsbD k = w.getLsbD (2 * k) :=
  ofNat_packBits_getLsbD (fun j => w.getLsbD (2 * j)) h

/-- Bit `k` of the compressed odd bits is bit `2k + 1` of the word (R9). -/
theorem co_getLsbD (w : Word) {k : Nat} (h : k < 16) : (co w).getLsbD k = w.getLsbD (2 * k + 1) :=
  ofNat_packBits_getLsbD (fun j => w.getLsbD (2 * j + 1)) h

/-- Settles O30: one rule per primitive of R9. -/
theorem arithmeticPrimitives : Obligations.ArithmeticPrimitives :=
  ⟨sat32_toInt, asr_floor, fun w => countOnes_eq_length_filter w 32,
    fun w _ h => ⟨ce_getLsbD w h, co_getLsbD w h⟩⟩

end Sys2Proof.Machine
end

section
/-! PROOFS. What each operation can leave, said once per operation: the inversion lemmas of the consumer steps, the frames
of a configuration write and of a filter step, and what a model fault stops. -/

namespace Sys2Proof.Machine

/-! ## A write of a configuration register (R251) -/

@[simp] theorem State.writeConfig_params (s : State) (r : MmioReg) (v : Word) :
    (s.writeConfig r v).params = s.params := by cases r <;> rfl

@[simp] theorem State.writeConfig_faulted (s : State) (r : MmioReg) (v : Word) :
    (s.writeConfig r v).faulted = s.faulted := by cases r <;> rfl

@[simp] theorem State.writeConfig_runState (s : State) (r : MmioReg) (v : Word) :
    (s.writeConfig r v).runState = s.runState := by cases r <;> rfl

@[simp] theorem State.writeConfig_err (s : State) (r : MmioReg) (v : Word) :
    (s.writeConfig r v).err = s.err := by cases r <;> rfl

@[simp] theorem State.writeConfig_history (s : State) (r : MmioReg) (v : Word) :
    (s.writeConfig r v).history = s.history := by cases r <;> rfl

/-- MMIO_WR of any register but CTRL is a configuration write in IDLE, and ignored elsewhere (R251, R253). -/
theorem exec_mmioWr_of_ne_ctrl {s : State} {off : BitVec 12} {r : MmioReg} (v : Word) (hf : s.faulted = none)
    (hr : mmioReg s.params.s2TapsMax off = r) (hne : r ≠ .ctrl) :
    exec (.mmioWr off v) s = .next (if s.runState = .idle then s.writeConfig r v else s) := by
  show execMmioWr off v s = _
  unfold execMmioWr
  rw [State.unlessFaulted_none hf, apply_ite Host.Outcome.next, hr]
  cases r with
  | ctrl => exact absurd rfl hne
  | _ => rfl

/-- MMIO_RD of a register that reads gives its word to the host (R252). -/
theorem exec_mmioRd_of_ok {s : State} {off : BitVec 12} {r : MmioReg} {x : Word} (hf : s.faulted = none)
    (hr : mmioReg s.params.s2TapsMax off = r) (hx : s.readReg r = .ok x) :
    exec (.mmioRd off) s = .next (s.giveHost x) := by
  show execMmioRd off s = _
  unfold execMmioRd
  rw [State.unlessFaulted_none hf, hr, hx]

/-! ## The consumer steps (R221) -/

theorem execCTake_next {s t : State} (h : execCTake s = .next t) :
    s.faulted = none ∧ s.runState = .running ∧ s.cstate = .await ∧ s.slotFull = true ∧ t = s.takeBuffer := by
  simp only [execCTake, State.consumerStep_next, Bool.and_eq_true, beq_iff_eq, Host.Outcome.next.injEq] at h
  obtain ⟨hf, hr, ⟨hc, hs⟩, rfl⟩ := h
  exact ⟨hf, hr, hc, hs, rfl⟩

theorem execCEmit_next {s t : State} (h : execCEmit s = .next t) :
    s.faulted = none ∧ s.runState = .running ∧ s.cstate = .emit ∧ t = s.emitFrame := by
  simp only [execCEmit, State.consumerStep_next, beq_iff_eq, Host.Outcome.next.injEq] at h
  obtain ⟨hf, hr, hc, rfl⟩ := h
  exact ⟨hf, hr, hc, rfl⟩

theorem execCStep_next {s t : State} {c : BitVec 1} {j : BitVec 16} (h : execCStep c j s = .next t) :
    s.faulted = none ∧ s.runState = .running ∧ s.cstate = .filt ∧ c = s.ch ∧ j = s.wix ∧
      s.filterStep c j = .next t := by
  simp only [execCStep, State.consumerStep_next, Bool.and_eq_true, beq_iff_eq] at h
  obtain ⟨hf, hr, ⟨⟨hc, hch⟩, hj⟩, hstep⟩ := h
  exact ⟨hf, hr, hc, hch, hj, hstep⟩

/-- Everything C_DEINT can leave (R164): a read raised UNINIT_READ, or the controller filters, with the held region
deinterleaved where there are two channels. -/
theorem execCDeint_next {s t : State} (h : execCDeint s = .next t) :
    s.faulted = none ∧ s.runState = .running ∧ s.cstate = .deint ∧
      ((∃ k, t = s.raise k) ∨ ∃ u, s.deinterleave = .ok u ∧ t = u.startFiltering) := by
  simp only [execCDeint, State.consumerStep_next, beq_iff_eq] at h
  obtain ⟨hf, hr, hc, h⟩ := h
  refine ⟨hf, hr, hc, ?_⟩
  cases hd : s.deinterleave with
  | error e =>
    simp only [hd, Halt.outcome_next] at h
    exact .inl (h.imp fun _ hk => hk.2)
  | ok u =>
    simp only [hd, Host.Outcome.next.injEq] at h
    exact .inr ⟨u, rfl, h.symm⟩

/-- The frame of C_DEINT's work: it touches BUFMEM alone. -/
theorem State.deinterleave_frame {s u : State} (h : s.deinterleave = .ok u) : u = s.setBufmem u.bufmem := by
  rcases State.deinterleave_ok h with ⟨-, rfl⟩ | ⟨-, b, -, rfl⟩ <;> rfl

/-- The frame of C_STEP's work, abandoned or complete (R226). -/
theorem State.filterStep_frame {s t : State} {c : BitVec 1} {j : BitVec 16} (h : s.filterStep c j = .next t) :
    t = { s with
      bufmem := t.bufmem, chan0 := t.chan0, chan1 := t.chan1, cstate := t.cstate, ch := t.ch, wix := t.wix
      faulted := t.faulted } := by
  rcases State.filterStep_next h with rfl | ⟨w, window, coefs, -, -, -, ⟨-, -, rfl⟩ | ⟨-, v, -, rfl⟩ | ⟨-, rfl⟩⟩
  · rfl
  · rfl
  all_goals
    rw [State.advance_eq]
    rfl

/-! ## After a model fault (R49, R285) -/

theorem State.consumerStep_some {s : State} {k : ModelFault} (h : s.faulted = some k) (b : Bool) (r : Result) :
    s.consumerStep b r = .fault (.modelFaulted k) := State.unlessFaulted_some h _

/-- With FAULTED set, every operation but RESET stops with the fault that names it. -/
theorem exec_of_faulted {s : State} {k : ModelFault} (h : s.faulted = some k) {i : Instr} (hi : i ≠ .reset) :
    exec i s = .fault (.modelFaulted k) := by
  cases i with
  | mmioWr off v => exact State.unlessFaulted_some h _
  | mmioRd off => exact State.unlessFaulted_some h _
  | portWord w => exact State.unlessFaulted_some h _
  | cTake => exact State.consumerStep_some h _ _
  | cDeint => exact State.consumerStep_some h _ _
  | cStep c j => exact State.consumerStep_some h _ _
  | cEmit => exact State.consumerStep_some h _ _
  | reset => exact absurd rfl hi

/-- Settles O54: RESET's next state is the one after reset, where FAULTED is none. -/
theorem modelFaultStopsEveryAgentUntilReset : Obligations.ModelFaultStopsEveryAgentUntilReset :=
  fun s _ h => ⟨fun _ hi => exec_of_faulted h hi, s.afterReset (State.resetWith s.params), rfl, rfl⟩

end Sys2Proof.Machine
end

section
/-! PROOFS. What every operation keeps of the run state, the setup error and the event history (R33, R42, R49). -/

namespace Sys2Proof.Machine

/-- The producer handler keeps the run state and the setup error, whichever of its cases it ends in (R143). -/
theorem State.producerHandler_runState {s t : State} {w : Word} (h : s.producerHandler w = .next t) :
    t.runState = s.runState ∧ t.err = s.err := by
  rcases State.producerHandler_next h with ⟨-, rfl⟩ | ⟨-, -, ⟨-, rfl⟩ | ⟨-, -, rfl⟩ | ⟨-, -, rfl⟩⟩ <;> exact ⟨rfl, rfl⟩

/-- The producer handler appends at most a PUBLISH event (R144). -/
theorem State.producerHandler_history {s t : State} {w : Word} (h : s.producerHandler w = .next t) :
    s.history <+: t.history := by
  rcases State.producerHandler_next h with ⟨-, rfl⟩ | ⟨-, -, ⟨-, rfl⟩ | ⟨-, -, rfl⟩ | ⟨-, -, rfl⟩⟩
  · exact List.prefix_rfl
  · exact List.prefix_rfl
  · exact List.prefix_rfl
  · exact List.prefix_append _ _

/-- START, whatever its checks find, leaves the event history alone (R256, R283). -/
theorem State.setup_history {s t : State} (h : s.setup = .next t) : t.history = s.history := by
  rcases State.setup_next h with ⟨-, rfl⟩ | ⟨-, rfl⟩ <;> rfl

/-- Every operation but RESET keeps the run state and the setup error, except a START in IDLE. -/
theorem exec_next_runState {s t : State} {i : Instr} (h : exec i s = .next t) (hi : i ≠ .reset) :
    (t.runState = s.runState ∧ t.err = s.err) ∨
      (s.runState = .idle ∧ ∃ v, i = .mmioWr 0x000#12 v ∧ v.getLsbD 0 = true) := by
  cases i with
  | mmioWr off v =>
    obtain ⟨-, rfl | ⟨hr, rfl, hv, -⟩ | ⟨-, rfl⟩⟩ := execMmioWr_next h
    · exact .inl ⟨rfl, rfl⟩
    · exact .inr ⟨hr, v, rfl, hv⟩
    · exact .inl ⟨s.writeConfig_runState _ v, s.writeConfig_err _ v⟩
  | mmioRd off =>
    obtain ⟨-, ⟨v, rfl⟩ | rfl⟩ := execMmioRd_next h <;> exact .inl ⟨rfl, rfl⟩
  | portWord w =>
    obtain ⟨-, ⟨-, rfl⟩ | ⟨-, hp⟩⟩ := execPortWord_next h
    · exact .inl ⟨rfl, rfl⟩
    · exact .inl (State.producerHandler_runState (s := s.log (.port w)) hp)
  | cTake =>
    obtain ⟨-, -, -, -, rfl⟩ := execCTake_next h
    exact .inl ⟨rfl, rfl⟩
  | cDeint =>
    obtain ⟨-, -, -, ⟨k, rfl⟩ | ⟨u, hu, rfl⟩⟩ := execCDeint_next h
    · exact .inl ⟨rfl, rfl⟩
    · rw [State.deinterleave_frame hu]
      exact .inl ⟨rfl, rfl⟩
  | cStep c j =>
    obtain ⟨-, -, -, -, -, hstep⟩ := execCStep_next h
    rw [State.filterStep_frame hstep]
    exact .inl ⟨rfl, rfl⟩
  | cEmit =>
    obtain ⟨-, -, -, rfl⟩ := execCEmit_next h
    exact .inl ⟨rfl, rfl⟩
  | reset => exact absurd rfl hi

/-- Settles O53: the one operation besides RESET that moves the run state is a START, which acts in IDLE only. -/
theorem onlyResetLeavesRunningOrFault : Obligations.OnlyResetLeavesRunningOrFault := by
  intro s i t h hi
  rcases exec_next_runState h hi with ⟨hr, he⟩ | ⟨hidle, hstart⟩
  · exact ⟨fun hs => ⟨hr.trans hs, he⟩, fun hs => ⟨hr.trans hs, he⟩, fun hs ht => absurd (hr.trans hs) ht⟩
  · exact ⟨fun hs => by simp [hidle] at hs, fun hs => by simp [hidle] at hs, fun _ _ => hstart⟩

/-- Settles O55: each operation keeps the history or appends to it. -/
theorem eventHistoryOnlyGrows : Obligations.EventHistoryOnlyGrows := by
  intro s i t h
  cases i with
  | mmioWr off v =>
    obtain ⟨-, rfl | ⟨-, -, -, hs⟩ | ⟨-, rfl⟩⟩ := execMmioWr_next h
    · exact List.prefix_rfl
    · rw [State.setup_history hs]
    · rw [State.writeConfig_history]
  | mmioRd off =>
    obtain ⟨-, ⟨v, rfl⟩ | rfl⟩ := execMmioRd_next h <;> exact List.prefix_rfl
  | portWord w =>
    have logged : s.history <+: (s.log (.port w)).history := List.prefix_append _ _
    obtain ⟨-, ⟨-, rfl⟩ | ⟨-, hp⟩⟩ := execPortWord_next h
    · exact logged
    · exact logged.trans (State.producerHandler_history hp)
  | cTake =>
    obtain ⟨-, -, -, -, rfl⟩ := execCTake_next h
    exact List.prefix_append _ _
  | cDeint =>
    obtain ⟨-, -, -, ⟨k, rfl⟩ | ⟨u, hu, rfl⟩⟩ := execCDeint_next h
    · exact List.prefix_rfl
    · rw [State.deinterleave_frame hu]
      exact List.prefix_rfl
  | cStep c j =>
    obtain ⟨-, -, -, -, -, hstep⟩ := execCStep_next h
    rw [State.filterStep_frame hstep]
  | cEmit =>
    obtain ⟨-, -, -, rfl⟩ := execCEmit_next h
    exact List.prefix_append _ _
  | reset =>
    obtain rfl : s.afterReset (State.resetWith s.params) = t := Host.Outcome.next.inj h
    exact List.prefix_append _ _

end Sys2Proof.Machine
end

section
/-! PROOFS. What the host reads back of what it wrote, and the word REQ_WORDS reads (R35 to R41, R77, R260). -/

namespace Sys2Proof.Machine

/-- A field of a word, put back in its place, has the word's bits in its range and 0 elsewhere. -/
theorem field_in_place_getLsbD (v : Word) {start len i : Nat} (hlen : start + len ≤ 32) :
    ((v.extractLsb' start len).setWidth 32 <<< start).getLsbD i =
      (v.getLsbD i && decide (start ≤ i ∧ i < start + len)) := by
  simp only [BitVec.getLsbD_shiftLeft, BitVec.getLsbD_setWidth, BitVec.getLsbD_extractLsb']
  by_cases h : start ≤ i ∧ i < start + len
  · obtain ⟨hlow, hhigh⟩ := h
    simp [show i < 32 by omega, show i - start < len by omega, show i - start < 32 by omega, hlow, hhigh]
  · by_cases hlow : i < start
    · simp [hlow, h]
    · simp [show ¬i - start < len by omega, h]

/-- The bits of CFG that are no field read as 0: the packed fields of a written word are the word under the field mask
(R35, R109). -/
theorem cfg_fields_eq_masked (v : Word) :
    ((v.extractLsb' 16 16).setWidth 32 <<< 16) ||| ((v.extractLsb' 8 6).setWidth 32 <<< 8)
      ||| (v.extractLsb' 0 4).setWidth 32 = v &&& 0xFFFF3F0F#32 := by
  have mask : ∀ i < 32, (0xFFFF3F0F#32).getLsbD i = decide (16 ≤ i ∨ (8 ≤ i ∧ i < 14) ∨ i < 4) := by decide
  apply BitVec.eq_of_getLsbD_eq
  intro i hi
  have channels := field_in_place_getLsbD v (start := 0) (len := 4) (i := i) (by decide)
  rw [BitVec.shiftLeft_zero] at channels
  rw [BitVec.getLsbD_and, mask i hi, BitVec.getLsbD_or, BitVec.getLsbD_or, channels,
    field_in_place_getLsbD v (by decide), field_in_place_getLsbD v (by decide), ← Bool.and_or_distrib_left,
    ← Bool.and_or_distrib_left]
  congr 1
  simp only [← Bool.decide_or, decide_eq_decide]
  omega

/-- NTAPS is the low byte of S2_NTAPS (R36). -/
theorem ntaps_field_eq_masked (v : Word) : (v.extractLsb' 0 8).setWidth 32 = v &&& 0x000000FF#32 := by
  have mask : ∀ i < 32, (0x000000FF#32).getLsbD i = decide (i < 8) := by decide
  apply BitVec.eq_of_getLsbD_eq
  intro i hi
  have ntaps := field_in_place_getLsbD v (start := 0) (len := 8) (i := i) (by decide)
  rw [BitVec.shiftLeft_zero] at ntaps
  rw [BitVec.getLsbD_and, mask i hi, ntaps]
  simp

/-- A register that the configuration write `v` makes read `x` reads back `x` after MMIO_WR in IDLE. -/
theorem exec_mmioRd_after_mmioWr {s : State} {off : BitVec 12} {r : MmioReg} {v x : Word} (hf : s.faulted = none)
    (hi : s.runState = .idle) (hr : mmioReg s.params.s2TapsMax off = r) (hne : r ≠ .ctrl)
    (hx : (s.writeConfig r v).readReg r = .ok x) :
    ∃ t, exec (.mmioWr off v) s = .next t ∧
      exec (.mmioRd off) t = .next { t with hostReads := t.hostReads ++ [x] } := by
  refine ⟨s.writeConfig r v, ?_, exec_mmioRd_of_ok (by simpa using hf) (by simpa using hr) hx⟩
  rw [exec_mmioWr_of_ne_ctrl v hf hr hne, if_pos hi]

/-- Settles O13: per register, the word its write leaves is the one its read packs. -/
theorem writtenRegistersReadBack : Obligations.WrittenRegistersReadBack := by
  intro s v hp hf hi
  refine ⟨?_, ?_, ?_, ?_, fun t ht => ⟨?_, fun u hu => ?_⟩, fun k hk => ⟨?_, fun u hu => ?_⟩⟩
  · exact exec_mmioRd_after_mmioWr hf hi (r := .cfg) rfl nofun (congrArg Except.ok (cfg_fields_eq_masked v))
  · exact exec_mmioRd_after_mmioWr hf hi (r := .s2Ntaps) rfl nofun (congrArg Except.ok (ntaps_field_eq_masked v))
  · exact exec_mmioRd_after_mmioWr hf hi (r := .bufBase) rfl nofun rfl
  · exact exec_mmioRd_after_mmioWr hf hi (r := .bufWords) rfl nofun rfl
  · exact exec_mmioRd_after_mmioWr hf hi (mmioReg_s1Coef _ ht) nofun (by simp [State.readReg, State.writeConfig])
  · exact Memory.read_write_of_ne _ v hu
  · exact exec_mmioRd_after_mmioWr hf hi (mmioReg_s2Coef hk hp.2.1) nofun (by simp [State.readReg, State.writeConfig])
  · exact Memory.read_write_of_ne _ v hu

/-- The sizing function fits REQ_WORDS whatever CFG holds: at most 15 channels of 65535 words (R260). -/
theorem State.reqWord_toNat (s : State) :
    s.reqWord.toNat = 2 * s.channels.toNat * s.decim.toNat + s.channels.toNat * 8 := by
  have hc : s.channels.toNat ≤ 15 := Nat.le_of_lt_succ s.channels.isLt
  have hd : s.decim.toNat ≤ 65535 := Nat.le_of_lt_succ s.decim.isLt
  have hcd : 2 * s.channels.toNat * s.decim.toNat ≤ 2 * 15 * 65535 :=
    Nat.mul_le_mul (Nat.mul_le_mul_left 2 hc) hd
  show s.reqSize % 2 ^ 32 = s.reqSize
  apply Nat.mod_eq_of_lt
  show 2 * s.channels.toNat * s.decim.toNat + s.channels.toNat * 8 < 2 ^ 32
  omega

/-- Settles O15: the word read is exact because the sizing function fits it, and the write names a register that no write
reaches. -/
theorem reqWordsReadsTheSizingFunction : Obligations.ReqWordsReadsTheSizingFunction := by
  refine ⟨fun s hf => ⟨⟨s.reqWord, s.reqWord_toNat, exec_mmioRd_of_ok hf (r := .reqWords) rfl rfl⟩, fun v => ?_⟩, rfl⟩
  exact (exec_mmioWr_of_ne_ctrl v hf (r := .reqWords) rfl nofun).trans (congrArg Host.Outcome.next (ite_self s))

end Sys2Proof.Machine
end

section
/-! PROOFS. Every step keeps the invariant. `Shaped` holds of every state an operation leaves; what a running block needs
besides is kept transition by transition (R50, R87, R146, R148). -/

namespace Sys2Proof.Machine

/-! ## What holds in every state -/

/-- `Shaped` speaks of the parameters, the memories, the delay lines, STATE and ERR alone. -/
theorem State.Shaped.of_frame {s t : State} (h : s.Shaped)
    (ht : t = { s with
      active := t.active, count := t.count, slotFull := t.slotFull, slotAddr := t.slotAddr
      cstate := t.cstate, ch := t.ch, wix := t.wix, curValid := t.curValid, cur := t.cur
      faulted := t.faulted, history := t.history, stimulus := t.stimulus, hostReads := t.hostReads }) : t.Shaped := by
  rw [ht]
  exact ⟨h.params, h.bufmem, h.s1Coef, h.s2Coef, h.delays, h.err⟩

theorem State.Shaped.setBufmem {s : State} (h : s.Shaped) {m : Memory}
    (hm : m.wf ∧ ∀ x ∈ m, x.1 < s.params.bufmemWords) : (s.setBufmem m).Shaped :=
  ⟨h.params, hm, h.s1Coef, h.s2Coef, h.delays, h.err⟩

theorem State.Shaped.setChan {s : State} (h : s.Shaped) (c : BitVec 1) {x : Channel}
    (hx : x.dl.length = s.params.s2TapsMax) : (s.setChan c x).Shaped := by
  obtain ⟨h0, h1⟩ := h.delays
  refine ⟨h.params, h.bufmem, h.s1Coef, h.s2Coef, ?_, h.err⟩
  rcases bit_cases c with rfl | rfl
  · exact ⟨hx, h1⟩
  · exact ⟨h0, hx⟩

theorem State.Shaped.chan_length {s : State} (h : s.Shaped) (c : BitVec 1) :
    (s.chan c).dl.length = s.params.s2TapsMax := by
  obtain ⟨h0, h1⟩ := h.delays
  rcases bit_cases c with rfl | rfl
  · exact h0
  · exact h1

/-- A push keeps the length of the delay line: one word in front, the oldest dropped (R202). -/
theorem State.Shaped.pushed_length {s : State} (h : s.Shaped) (c : BitVec 1) (y : Word) :
    (s.pushed c y).dl.length = s.params.s2TapsMax := by
  simp [State.pushed, h.chan_length c]

/-- A configuration write stays inside the coefficient memories: an offset names no entry beyond them (R76). -/
theorem State.Shaped.writeConfig {s : State} (h : s.Shaped) (off : BitVec 12) (v : Word) :
    (s.writeConfig (mmioReg s.params.s2TapsMax off) v).Shaped := by
  rcases mmioReg_cases s.params.s2TapsMax off with ⟨e, -⟩ | ⟨k, hk, e⟩ | ⟨k, hk, e⟩ | e
  · rw [e]
    exact h
  · rw [e]
    exact ⟨h.params, h.bufmem, Memory.bounded_write v h.s1Coef hk, h.s2Coef, h.delays, h.err⟩
  · rw [e]
    exact ⟨h.params, h.bufmem, h.s1Coef, Memory.bounded_write v h.s2Coef hk, h.delays, h.err⟩
  · simp only [List.mem_cons, List.not_mem_nil, or_false] at e
    rcases e with e | e | e | e | e | e | e <;> rw [e] <;>
      exact ⟨h.params, h.bufmem, h.s1Coef, h.s2Coef, h.delays, h.err⟩

/-- A state whose memories are clear, in IDLE with no setup error, is shaped once its delay lines are. -/
theorem State.Shaped.afterReset {s : State} (h : s.params.wf) : (s.afterReset (State.resetWith s.params)).Shaped := by
  have hdl (c : Nat) : (freeChannel s.params s.draws c).dl.length = s.params.s2TapsMax := by simp [freeChannel]
  exact ⟨h, ⟨List.Pairwise.nil, nofun⟩, ⟨List.Pairwise.nil, nofun⟩, ⟨List.Pairwise.nil, nofun⟩, ⟨hdl 0, hdl 1⟩,
    fun he => absurd rfl he⟩

theorem State.Shaped.resetWith {p : Params} (h : p.wf) : (State.resetWith p).Shaped :=
  ⟨h, ⟨List.Pairwise.nil, nofun⟩, ⟨List.Pairwise.nil, nofun⟩, ⟨List.Pairwise.nil, nofun⟩,
    ⟨List.length_replicate, List.length_replicate⟩, fun he => absurd rfl he⟩

/-! ## What holds of a running block with no model fault -/

/-- What the invariant asks of a running block with no model fault. -/
def State.RunInv (s : State) : Prop := s.setupCheck = .none ∧ s.R50 ∧ s.Handoff ∧ s.Written

/-- Outside FILT both phases are 0 (R50 c). -/
theorem State.R50.phase_zero {s : State} (h : s.R50) (hc : s.cstate ≠ .filt) (c : BitVec 1) :
    (s.chan c).ph.toNat = 0 := by
  rw [h.c c, if_neg fun hf => hc hf.1]

/-- COUNT restarts at the region's length exactly: it fits the register (R43). -/
theorem State.restartCount_toNat {s : State} (h : s.setupCheck = .none) :
    (BitVec.ofNat 18 s.regionLen).toNat = s.regionLen := by
  obtain ⟨-, hlen, -⟩ := State.regionLen_bounds h
  rw [BitVec.toNat_ofNat]
  omega

/-- WIX starts at the oldest word, D - 1 (R223). -/
theorem State.oldestWord_toNat {s : State} (h : s.setupCheck = .none) :
    (s.decim - 1).toNat = s.decimation - 1 ∧ 1 ≤ s.decimation := by
  obtain ⟨-, hd, -⟩ := State.setupCheck_none.1 h
  have hlt : s.decimation < 2 ^ 16 := s.decim.isLt
  have hdec : s.decim.toNat = s.decimation := rfl
  constructor
  · bv_omega
  · omega

/-- New contents of BUFMEM that clear no mark keep it. -/
theorem State.RunInv.setBufmem {s : State} (h : s.RunInv) {m : Memory}
    (hm : ∀ a, s.bufmem.marked a = true → m.marked a = true) : (s.setBufmem m).RunInv := by
  obtain ⟨hchk, r50, ho, hw⟩ := h
  exact ⟨hchk, ⟨r50.a, r50.b, r50.c, r50.d, r50.e⟩, ⟨ho.held, ho.full⟩,
    ⟨fun i hi => hm _ (hw.windows i hi), fun i h1 h2 => hm _ (hw.fill i h1 h2),
      fun hs i hi => hm _ (hw.published hs i hi), fun hv i hi => hm _ (hw.held hv i hi)⟩⟩

/-- What START sets up: the whole of region A is still to be filled, nothing is published or held (R257). -/
theorem State.setupRegs_runInv {s : State} (hchk : s.setupCheck = .none)
    (hw : ∀ i < s.numChannels * Config.histWords, s.bufmem.marked (s.histBase 0 + i) = true) :
    s.setupRegs.RunInv := by
  have hcount : s.setupRegs.count.toNat = s.regionLen := State.restartCount_toNat hchk
  obtain ⟨hpos, -⟩ := State.regionLen_bounds hchk
  refine ⟨hchk, ⟨?_, nofun, fun c => ?_, ?_, nofun⟩, ⟨nofun, nofun⟩, ⟨hw, fun i h1 h2 => ?_, nofun, nofun⟩⟩
  · rw [hcount, State.setupRegs_regionLen]
    omega
  · rcases bit_cases c with rfl | rfl <;> rfl
  · simp
  · rw [State.setupRegs_regionLen] at h2
    omega

/-! ### The producer (R143, R144) -/

/-- A port word that does not complete the region: no TEAR means that the consumer holds another region, so its hold and
the published region stay as they are. -/
theorem State.RunInv.countDown {s : State} (h : s.RunInv) (htear : s.tears = false) (hone : s.count ≠ 1)
    (hmark : s.bufmem.marked s.fillAddr = true) : s.countDown.RunInv := by
  obtain ⟨hchk, r50, ho, hw⟩ := h
  obtain ⟨hpos, hle⟩ := r50.a
  have hdown : s.countDown.count.toNat = s.count.toNat - 1 := by
    rw [State.countDown_count]
    bv_omega
  have hdown_pos : 1 ≤ s.count.toNat - 1 := by bv_omega
  refine ⟨hchk, ⟨?_, r50.b, r50.c, r50.d, r50.e⟩, ⟨ho.held, fun hv hs => ?_⟩,
    ⟨hw.windows, fun i h1 h2 => ?_, hw.published, hw.held⟩⟩
  · rw [hdown, State.countDown_regionLen]
    omega
  · have hcur := ho.held hv
    simp only [State.countDown_slotFull, State.countDown_curValid] at hs hv
    rw [if_pos hs] at hcur
    simp [State.tears, hv, hcur] at htear
  · by_cases hlast : i = s.count.toNat - 1
    · subst hlast
      rw [← hdown]
      exact hmark
    · rw [hdown] at h1
      exact hw.fill i (by omega) h2

/-- A port word that completes the region with the slot empty: the region is published as a whole, and the fill restarts
in the other one, which is the held region if there is one. -/
theorem State.RunInv.publish {s : State} (h : s.RunInv) (hp : s.params.wf) (hone : s.count = 1)
    (hslot : s.slotFull = false) (hmark : s.bufmem.marked s.fillAddr = true) :
    (s.countDown.publish s.active).swapRegions.RunInv := by
  obtain ⟨hchk, r50, ho, hw⟩ := h
  obtain ⟨-, -, hpos, -, hfit, hmax, hregion, -⟩ := State.geometry hchk hp
  have hcount : (BitVec.ofNat 18 s.regionLen).toNat = s.regionLen := State.restartCount_toNat hchk
  have hfull : ∀ i < s.regionLen, s.bufmem.marked (s.regionBase s.active + i) = true := by
    intro i hi
    cases i with
    | zero =>
      rw [State.fillAddr, hone] at hmark
      exact hmark
    | succ i => exact hw.fill (i + 1) (by rw [hone]; simp) hi
  refine ⟨hchk, ⟨?_, fun _ => ?_, r50.c, r50.d, r50.e⟩, ⟨fun hv => ?_, fun _ _ => hcount⟩,
    ⟨hw.windows, fun i h1 h2 => ?_, fun _ i hi => ?_, hw.held⟩⟩
  · show 1 ≤ (BitVec.ofNat 18 s.regionLen).toNat ∧ (BitVec.ofNat 18 s.regionLen).toNat ≤ s.regionLen
    omega
  · show (BitVec.ofNat 32 (s.regionBase s.active)).toNat = s.regionBase (1#1 - (1#1 - s.active))
    obtain ⟨-, hend⟩ := hregion s.active
    rw [other_other, BitVec.toNat_ofNat, Nat.mod_eq_of_lt (by omega)]
  · have hcur := ho.held hv
    rwa [hslot] at hcur
  · have h1' : (BitVec.ofNat 18 s.regionLen).toNat ≤ i := h1
    have h2' : i < s.regionLen := h2
    omega
  · show s.bufmem.marked (s.regionBase (1#1 - (1#1 - s.active)) + i) = true
    rw [other_other]
    exact hfull i hi

/-! ### The consumer (R222 to R229) -/

/-- C_TAKE: the published region is now the held one (R222). -/
theorem State.RunInv.takeBuffer {s : State} (h : s.RunInv) (hc : s.cstate = .await) (hs : s.slotFull = true) :
    s.takeBuffer.RunInv := by
  obtain ⟨hchk, r50, ho, hw⟩ := h
  have hslot := r50.b hs
  refine ⟨hchk, ⟨r50.a, nofun, fun c => ?_, ?_, nofun⟩, ⟨fun _ => hslot, fun _ => nofun⟩,
    ⟨hw.windows, hw.fill, nofun, fun _ i hi => ?_⟩⟩
  · exact r50.phase_zero (by simp [hc]) c
  · simp
  · show s.bufmem.marked (s.slotAddr.toNat + i) = true
    rw [hslot]
    exact hw.published hs i hi

/-- The end of C_DEINT: filtering starts at channel 0's oldest word, which is phase 0 (R164, R223). -/
theorem State.RunInv.startFiltering {s : State} (h : s.RunInv) (hc : s.cstate = .deint) : s.startFiltering.RunInv := by
  obtain ⟨hchk, r50, ho, hw⟩ := h
  obtain ⟨hwix, hpos⟩ := State.oldestWord_toNat hchk
  obtain ⟨hchan, -⟩ := State.setupCheck_none.1 hchk
  have hold : s.curValid = true := r50.d.2 (by simp [hc])
  refine ⟨hchk, ⟨r50.a, r50.b, fun c => ?_, ?_, fun _ => ?_⟩, ⟨ho.held, ho.full⟩,
    ⟨hw.windows, hw.fill, hw.published, hw.held⟩⟩
  · have hph : (s.startFiltering.chan c).ph.toNat = 0 := r50.phase_zero (by simp [hc]) c
    rw [hph, State.startFiltering_wix, State.startFiltering_decimation, hwix]
    split_ifs <;> omega
  · simp [hold]
  · rw [State.startFiltering_wix, State.startFiltering_ch, State.startFiltering_numChannels,
      State.startFiltering_decimation, hwix]
    simp
    omega

/-- C_EMIT: the region is released (R229). -/
theorem State.RunInv.emitFrame {s : State} (h : s.RunInv) (hc : s.cstate = .emit) : s.emitFrame.RunInv := by
  obtain ⟨hchk, r50, ho, hw⟩ := h
  refine ⟨hchk, ⟨r50.a, r50.b, fun c => ?_, ?_, nofun⟩, ⟨nofun, nofun⟩, ⟨hw.windows, hw.fill, hw.published, nofun⟩⟩
  · exact r50.phase_zero (by simp [hc]) c
  · simp

/-- The new state of a channel may be stored twice: the second value counts. -/
theorem State.setChan_setChan (s : State) (c : BitVec 1) (x y : Channel) :
    (s.setChan c x).setChan c y = s.setChan c y := by
  rcases bit_cases c with rfl | rfl <;> rfl

theorem State.advance_word (s : State) (c : BitVec 1) {j : BitVec 16} (hj : j ≠ 0#16) :
    s.advance c j = { s with wix := j - 1 } := if_pos hj

theorem State.advance_channel {s : State} {c : BitVec 1} (hc : c.toNat + 1 < s.numChannels) :
    s.advance c 0#16 = { s with ch := c + 1, wix := s.decim - 1 } := if_pos hc

theorem State.advance_emit {s : State} {c : BitVec 1} (hc : ¬c.toNat + 1 < s.numChannels) :
    s.advance c 0#16 = { s with cstate := .emit } := if_neg hc

/-- C_STEP of a word that is not the channel's last: the phase goes one on as WIX goes one down (R203, R226). -/
theorem State.RunInv.advance_word {s : State} (h : s.RunInv) (hc : s.cstate = .filt) (hj : s.wix ≠ 0#16) {x : Channel}
    (hx : x.ph = (s.chan s.ch).ph + 1) : ((s.setChan s.ch x).advance s.ch s.wix).RunInv := by
  obtain ⟨hchk, r50, ho, hw⟩ := h
  obtain ⟨hch, hwix⟩ := r50.e hc
  have hd : s.decimation < 2 ^ 16 := s.decim.isLt
  have hdown : (s.wix - 1).toNat = s.wix.toNat - 1 ∧ 1 ≤ s.wix.toNat := by bv_omega
  rw [State.advance_word _ _ hj]
  refine ⟨hchk, ⟨r50.a, r50.b, fun c => ?_, r50.d, fun _ => ⟨hch, ?_⟩⟩, ⟨ho.held, ho.full⟩,
    ⟨hw.windows, hw.fill, hw.published, hw.held⟩⟩
  · show ((s.setChan s.ch x).chan c).ph.toNat =
      if s.cstate = .filt ∧ c = s.ch then s.decimation - 1 - (s.wix - 1).toNat else 0
    have hold := r50.c c
    by_cases hsame : c = s.ch
    · subst hsame
      rw [if_pos ⟨hc, rfl⟩] at hold ⊢
      rw [State.chan_setChan_self, hx]
      bv_omega
    · rw [if_neg fun hf => hsame hf.2] at hold ⊢
      rw [State.chan_setChan_of_ne s x hsame, hold]
  · show (s.wix - 1).toNat < s.decimation
    omega

/-- C_STEP of the channel's last word: every phase is 0 again, so the next channel starts at its oldest word, or the
frame is due (R203, R226). -/
theorem State.RunInv.advance_channel {s : State} (h : s.RunInv) (hc : s.cstate = .filt) {x : Channel}
    (hx : x.ph = 0#16) : ((s.setChan s.ch x).advance s.ch 0#16).RunInv := by
  obtain ⟨hchk, r50, ho, hw⟩ := h
  obtain ⟨holdest, hpos⟩ := State.oldestWord_toNat hchk
  have hzero (c : BitVec 1) : ((s.setChan s.ch x).chan c).ph.toNat = 0 := by
    by_cases hsame : c = s.ch
    · rw [hsame, State.chan_setChan_self, hx]
      rfl
    · rw [State.chan_setChan_of_ne s x hsame, r50.c c, if_neg fun hf => hsame hf.2]
  by_cases hnext : s.ch.toNat + 1 < s.numChannels
  · rw [State.advance_channel (s := s.setChan s.ch x) hnext]
    refine ⟨hchk, ⟨r50.a, r50.b, fun c => ?_, r50.d, fun _ => ⟨?_, ?_⟩⟩, ⟨ho.held, ho.full⟩,
      ⟨hw.windows, hw.fill, hw.published, hw.held⟩⟩
    · show ((s.setChan s.ch x).chan c).ph.toNat =
        if s.cstate = .filt ∧ c = s.ch + 1 then s.decimation - 1 - (s.decim - 1).toNat else 0
      rw [hzero c, holdest]
      split_ifs <;> omega
    · show (s.ch + 1).toNat < s.numChannels
      bv_omega
    · show (s.decim - 1).toNat < s.decimation
      omega
  · rw [State.advance_emit (s := s.setChan s.ch x) hnext]
    have hold : s.curValid = true := r50.d.2 (by simp [hc])
    refine ⟨hchk, ⟨r50.a, r50.b, hzero, ?_, nofun⟩, ⟨ho.held, ho.full⟩,
      ⟨hw.windows, hw.fill, hw.published, hw.held⟩⟩
    simp [hold]

end Sys2Proof.Machine
end

section
/-! PROOFS. The invariant operation by operation, and along every run from reset. -/

namespace Sys2Proof.Machine

/-- The invariant speaks of neither the event history, nor the pending operations, nor what the host has read. -/
theorem State.Inv.of_frame {s t : State} (h : s.Inv)
    (ht : t = { s with history := t.history, stimulus := t.stimulus, hostReads := t.hostReads }) : t.Inv := by
  rw [ht]
  refine ⟨h.shaped.of_frame rfl, fun hr hf => ?_⟩
  obtain ⟨hchk, r50, ho, hw⟩ := h.running hr hf
  exact ⟨hchk, ⟨r50.a, r50.b, r50.c, r50.d, r50.e⟩, ⟨ho.held, ho.full⟩,
    ⟨hw.windows, hw.fill, hw.published, hw.held⟩⟩

/-- A model fault leaves nothing to keep but the shape. -/
theorem State.Shaped.raise_inv {s : State} (h : s.Shaped) (k : ModelFault) : (s.raise k).Inv :=
  ⟨h.of_frame rfl, fun _ hf => by simp at hf⟩

/-- A block that does not run has nothing to keep but the shape. -/
theorem State.Shaped.inv_of_not_running {s : State} (h : s.Shaped) (hr : s.runState ≠ .running) : s.Inv :=
  ⟨h, fun hrun => absurd hrun hr⟩

/-! ## The host -/

/-- START establishes the invariant of a running block, or leaves the block in FAULT (R256, R283). -/
theorem State.Inv.setup {s t : State} (h : s.Inv) (hi : s.runState = .idle) (e : s.setup = .next t) : t.Inv := by
  have hs := h.shaped
  rcases State.setup_next e with ⟨hchk, rfl⟩ | ⟨-, rfl⟩
  · obtain ⟨-, -, -, -, hfit, -⟩ := State.geometry hchk hs.params
    have hbound : s.histBase 0 + (List.replicate (s.numChannels * 8) s.params.histInit).length ≤
        s.params.bufmemWords := by
      rw [State.histBase_eq, List.length_replicate]
      omega
    refine ⟨⟨hs.params, Memory.bounded_writeRun _ hs.bufmem hbound, hs.s1Coef, hs.s2Coef,
      ⟨List.length_replicate, List.length_replicate⟩, fun hne => ?_⟩, fun _ _ => ?_⟩
    · have hfault : s.runState = .fault := hs.err hne
      simp [hi] at hfault
    · refine State.setupRegs_runInv hchk fun i hw => ?_
      have hw' : i < s.numChannels * 8 := hw
      simp [Memory.marked_writeRun, hw']
  · exact State.Shaped.inv_of_not_running
      ⟨hs.params, hs.bufmem, hs.s1Coef, hs.s2Coef, hs.delays, fun _ => rfl⟩ nofun

theorem State.Inv.mmioWr {s t : State} (h : s.Inv) {off : BitVec 12} {v : Word}
    (e : execMmioWr off v s = .next t) : t.Inv := by
  obtain ⟨-, rfl | ⟨hi, -, -, hsetup⟩ | ⟨hi, rfl⟩⟩ := execMmioWr_next e
  · exact h
  · exact h.setup hi hsetup
  · exact (h.shaped.writeConfig off v).inv_of_not_running (by simp [hi])

theorem State.Inv.mmioRd {s t : State} (h : s.Inv) {off : BitVec 12} (e : execMmioRd off s = .next t) : t.Inv := by
  obtain ⟨-, ⟨v, rfl⟩ | rfl⟩ := execMmioRd_next e
  · exact h.of_frame rfl
  · exact h.shaped.raise_inv _

/-! ## The producer -/

/-- The producer's store keeps the shape: its address was checked (R72). -/
theorem State.Shaped.stored {s : State} (h : s.Shaped) (w : Word) (ha : s.fillAddr < s.params.bufmemWords) :
    (s.stored w).Shaped :=
  (h.setBufmem (Memory.bounded_write w h.bufmem ha)).of_frame rfl

theorem State.Inv.producerHandler {s t : State} (h : s.Inv) (hr : s.runState = .running) (hf : s.faulted = none)
    {w : Word} (e : s.producerHandler w = .next t) : t.Inv := by
  have hrun : s.RunInv := h.running hr hf
  have hstore : (s.setBufmem (s.bufmem.write s.fillAddr w)).RunInv :=
    hrun.setBufmem fun _ => Memory.marked_write_of
  have hmark : (s.bufmem.write s.fillAddr w).marked s.fillAddr = true := by simp [Memory.marked_write]
  rcases State.producerHandler_next e with ⟨-, rfl⟩ | ⟨htear, ha, ⟨hone, rfl⟩ | ⟨-, -, rfl⟩ | ⟨hone, hslot, rfl⟩⟩
  · exact h.shaped.raise_inv _
  · exact ⟨h.shaped.stored w ha, fun _ _ => hstore.countDown htear hone hmark⟩
  · exact (h.shaped.stored w ha).raise_inv _
  · exact ⟨(h.shaped.stored w ha).of_frame rfl, fun _ _ => hstore.publish h.shaped.params hone hslot hmark⟩

theorem State.Inv.portWord {s t : State} (h : s.Inv) {w : Word} (e : execPortWord w s = .next t) : t.Inv := by
  have hlog : (s.log (.port w)).Inv := h.of_frame rfl
  obtain ⟨hf, ⟨-, rfl⟩ | ⟨hr, hp⟩⟩ := execPortWord_next e
  · exact hlog
  · exact hlog.producerHandler hr hf hp

/-! ## The consumer -/

/-- A run of words that was read lies in BUFMEM. -/
theorem State.memReads_bound {s : State} {a n : Nat} {ws : List Word} (h : s.memReads a n = .ok ws) (hn : 1 ≤ n) :
    a + n ≤ s.params.bufmemWords := by
  obtain ⟨hlen, hread⟩ := State.memReads_ok.1 h
  obtain ⟨hlast, -⟩ := hread (n - 1) (by omega)
  omega

theorem State.Inv.cTake {s t : State} (h : s.Inv) (e : execCTake s = .next t) : t.Inv := by
  obtain ⟨hf, hr, hc, hs, rfl⟩ := execCTake_next e
  have hrun : s.RunInv := h.running hr hf
  exact ⟨h.shaped.of_frame rfl, fun _ _ => hrun.takeBuffer hc hs⟩

theorem State.Inv.cEmit {s t : State} (h : s.Inv) (e : execCEmit s = .next t) : t.Inv := by
  obtain ⟨hf, hr, hc, rfl⟩ := execCEmit_next e
  have hrun : s.RunInv := h.running hr hf
  exact ⟨h.shaped.of_frame rfl, fun _ _ => hrun.emitFrame hc⟩

theorem State.Inv.cDeint {s t : State} (h : s.Inv) (e : execCDeint s = .next t) : t.Inv := by
  obtain ⟨hf, hr, hc, ⟨k, rfl⟩ | ⟨u, hu, rfl⟩⟩ := execCDeint_next e
  · exact h.shaped.raise_inv _
  have hrun : s.RunInv := h.running hr hf
  rcases State.deinterleave_ok hu with ⟨-, rfl⟩ | ⟨hc2, b, hb, rfl⟩
  · exact ⟨h.shaped.of_frame rfl, fun _ _ => hrun.startFiltering hc⟩
  · have hpos : 1 ≤ s.regionLen := (State.regionLen_bounds hrun.1).1
    have hlen : (deint2 s.decimation b).length = s.regionLen := by
      rw [deint2_length, State.regionLen, hc2]
    have hmem := Memory.bounded_writeRun (deint2 s.decimation b) h.shaped.bufmem
      (hlen ▸ State.memReads_bound hb hpos)
    exact ⟨(h.shaped.setBufmem hmem).of_frame rfl,
      fun _ _ => (hrun.setBufmem fun _ => Memory.marked_writeRun_of).startFiltering hc⟩

theorem State.Shaped.advance {s : State} (h : s.Shaped) (c : BitVec 1) (j : BitVec 16) : (s.advance c j).Shaped := by
  unfold State.advance
  split_ifs <;> exact h.of_frame rfl

/-- Stage 1 and the shift of stage 2 keep the shape: the window that is written was read (R185, R203). -/
theorem State.Shaped.filtered {s : State} (h : s.Shaped) {c : BitVec 1} {window : List Word}
    (hwin : s.memReads (s.histBase c.toNat) 8 = .ok window) (w : Word) (coefs : List Word) :
    (s.filtered c w window coefs).Shaped := by
  have hlen : (shiftIn window w).length = 8 := shiftIn_length (State.memReads_ok.1 hwin).1 w
  have hbuf := h.setBufmem (Memory.bounded_writeRun (shiftIn window w) h.bufmem
    (hlen ▸ State.memReads_bound hwin (by decide)))
  exact hbuf.setChan c (hbuf.pushed_length c _)

/-- The frame value that stage 2 stores is no part of the shape (R226). -/
theorem State.Shaped.storeOutput {s : State} (h : s.Shaped) (c : BitVec 1) (v : Option Word) :
    (s.storeOutput c v).Shaped := by
  cases v with
  | none => exact h
  | some v => exact h.setChan c (h.chan_length c)

theorem State.Inv.cStep {s t : State} (h : s.Inv) {c : BitVec 1} {j : BitVec 16}
    (e : execCStep c j s = .next t) : t.Inv := by
  obtain ⟨hf, hr, hc, rfl, rfl, hstep⟩ := execCStep_next e
  have hrun : s.RunInv := h.running hr hf
  obtain ⟨-, hcycle⟩ := h.filter_phase hr hf hc
  rcases State.filterStep_next hstep with rfl | ⟨w, window, coefs, -, hwin, -, hcase⟩
  · exact h.shaped.raise_inv _
  have hshape := h.shaped.filtered hwin w coefs
  have hstored : (s.setBufmem (s.bufmem.writeRun (s.histBase s.ch.toNat) (shiftIn window w))).RunInv :=
    hrun.setBufmem fun _ => Memory.marked_writeRun_of
  rcases hcase with ⟨-, -, rfl⟩ | ⟨hend, v, -, rfl⟩ | ⟨hend, rfl⟩
  · exact hshape.raise_inv _
  · refine ⟨(hshape.storeOutput _ _).advance _ _, fun _ _ => ?_⟩
    rw [State.storeOutput_some, State.filtered, State.setChan_setChan, hcycle.1 hend]
    refine hstored.advance_channel hc ?_
    rw [State.chan_setChan_self]
    exact if_pos hend
  · refine ⟨hshape.advance _ _, fun _ _ => ?_⟩
    refine hstored.advance_word hc (fun hj => ?_) (if_neg ?_)
    · exact Bool.false_ne_true (hend.symm.trans (hcycle.2 hj))
    · exact ne_true_of_eq_false hend

/-! ## Steps and runs -/

/-- The state after reset, for legal parameters, meets the invariant (R310). -/
theorem State.resetWith_inv {p : Params} (h : p.wf) : (State.resetWith p).Inv :=
  (State.Shaped.resetWith h).inv_of_not_running nofun

/-- Every operation keeps the invariant. -/
theorem State.Inv.exec {s t : State} (h : s.Inv) {i : Instr} (e : exec i s = .next t) : t.Inv := by
  cases i with
  | mmioWr off v => exact h.mmioWr e
  | mmioRd off => exact h.mmioRd e
  | portWord w => exact h.portWord e
  | cTake => exact h.cTake e
  | cDeint => exact h.cDeint e
  | cStep c j => exact h.cStep e
  | cEmit => exact h.cEmit e
  | reset =>
    obtain rfl : s.afterReset (State.resetWith s.params) = t := Host.Outcome.next.inj e
    exact (State.Shaped.afterReset h.shaped.params).inv_of_not_running nofun

/-- What a step can answer: the state it waits in, or what the first pending operation leaves (R325). -/
theorem step_next {s t : State} (e : step s = .next t) : t = s ∨ ∃ i, exec i (s.consume i) = .next t := by
  unfold step at e
  cases hfetch : s.fetch with
  | usedUp =>
    rw [hfetch] at e
    exact .inl (Host.Outcome.next.inj e).symm
  | invalid k =>
    rw [hfetch] at e
    cases e
  | operation i =>
    rw [hfetch] at e
    exact .inr ⟨i, e⟩

/-- Settles O51, operation by operation (`State.Inv.exec`). -/
theorem everyStepKeepsTheInvariant : Obligations.EveryStepKeepsTheInvariant := by
  intro s t h e
  rcases step_next e with rfl | ⟨i, hi⟩
  · exact h
  · have hconsumed : (s.consume i).Inv := h.of_frame rfl
    exact hconsumed.exec hi

/-- A property that every step keeps holds at the end of every run of steps. -/
theorem runSteps_keeps {P : State → Prop} (hstep : ∀ s t, P s → step s = .next t → P t) {n : Nat} {s t : State}
    (hs : P s) (e : runSteps n s = .next t) : P t := by
  induction n generalizing s with
  | zero =>
    obtain rfl : s = t := Host.Outcome.next.inj e
    exact hs
  | succ n ih =>
    rw [runSteps] at e
    cases hfirst : step s with
    | next u =>
      rw [hfirst] at e
      exact ih (hstep s u hs hfirst) e
    | fault f =>
      rw [hfirst] at e
      cases e
    | refused r =>
      rw [hfirst] at e
      cases e

/-- Settles O52: the invariant holds after reset, whatever is loaded, and along every run. -/
theorem reachedRunningStatesMeetR50 : Obligations.ReachedRunningStatesMeetR50 := by
  intro p words n t hp e hr hf
  have hstart : ((State.resetWith p).load words).Inv := (State.resetWith_inv hp).of_frame rfl
  have hend : t.Inv := runSteps_keeps everyStepKeepsTheInvariant hstart e
  obtain ⟨-, r50, -⟩ := hend.running hr hf
  exact r50

end Sys2Proof.Machine
end

section
/-! PROOFS. What each operation stores in BUFMEM, said once (`exec_stores`), and what follows from it: the frames of the
consumer steps and of the producer, the buffer region, and the written marks (R74, R75, R87, R148, R164, R226). -/

namespace Sys2Proof.Machine

/-! ## The stores of an operation -/

/-- The run of words `vs` from `a` up that the operation `i` may store in BUFMEM, taken in state `s`: nothing, the port
word (R143), the deinterleaved region (R164), the channel's window (R185), or the initial windows (R257). -/
inductive State.Stores (s : State) : Instr → Nat → List Word → Prop
  | nothing (i : Instr) : s.Stores i 0 []
  | portWord (w : Word) (htear : s.tears = false) : s.Stores (.portWord w) s.fillAddr [w]
  | region (vs : List Word) (hc : s.cstate = .deint) (hchannels : s.numChannels = 2)
      (hlen : vs.length = 2 * s.decimation) : s.Stores .cDeint s.cur.toNat vs
  | window (j : BitVec 16) (vs : List Word) (hc : s.cstate = .filt) (hlen : vs.length = 8) :
      s.Stores (.cStep s.ch j) (s.histBase s.ch.toNat) vs
  | start (off : BitVec 12) (v : Word) (hidle : s.runState = .idle) :
      s.Stores (.mmioWr off v) (s.histBase 0) (List.replicate (s.numChannels * 8) s.params.histInit)

@[simp] theorem State.writeConfig_bufmem (s : State) (r : MmioReg) (v : Word) :
    (s.writeConfig r v).bufmem = s.bufmem := by cases r <;> rfl

@[simp] theorem State.advance_bufmem (s : State) (c : BitVec 1) (j : BitVec 16) :
    (s.advance c j).bufmem = s.bufmem := by
  rw [State.advance_eq]

@[simp] theorem State.advance_faulted (s : State) (c : BitVec 1) (j : BitVec 16) :
    (s.advance c j).faulted = s.faulted := by
  rw [State.advance_eq]

/-- The producer handler stores the port word, unless it finds a TEAR (R143, R286). -/
theorem State.producerHandler_bufmem {s t : State} {w : Word} (h : s.producerHandler w = .next t) :
    t.bufmem = s.bufmem ∨ (s.tears = false ∧ t.bufmem = s.bufmem.write s.fillAddr w) := by
  rcases State.producerHandler_next h with ⟨-, rfl⟩ | ⟨htear, -, ⟨-, rfl⟩ | ⟨-, -, rfl⟩ | ⟨-, -, rfl⟩⟩
  · exact .inl rfl
  all_goals exact .inr ⟨htear, rfl⟩

/-- C_STEP's work stores the window it read with the channel word shifted in, if anything (R185). -/
theorem State.filterStep_bufmem {s t : State} {c : BitVec 1} {j : BitVec 16} (h : s.filterStep c j = .next t) :
    t.bufmem = s.bufmem ∨
      ∃ vs : List Word, vs.length = 8 ∧ t.bufmem = s.bufmem.writeRun (s.histBase c.toNat) vs := by
  rcases State.filterStep_next h with rfl | ⟨w, window, coefs, -, hwin, -, hcase⟩
  · exact .inl rfl
  refine .inr ⟨shiftIn window w, shiftIn_length (State.memReads_ok.1 hwin).1 w, ?_⟩
  rcases hcase with ⟨-, -, rfl⟩ | ⟨-, v, -, rfl⟩ | ⟨-, rfl⟩
  · rfl
  · exact State.advance_bufmem _ c j
  · exact State.advance_bufmem _ c j

/-- Every operation but RESET changes BUFMEM by one run of stores, and `State.Stores` says which. -/
theorem exec_stores {s t : State} {i : Instr} (h : exec i s = .next t) (hi : i ≠ .reset) :
    ∃ a vs, s.Stores i a vs ∧ t.bufmem = s.bufmem.writeRun a vs := by
  cases i with
  | mmioWr off v =>
    obtain ⟨-, rfl | ⟨hidle, -, -, hsetup⟩ | ⟨-, rfl⟩⟩ := execMmioWr_next h
    · exact ⟨_, _, .nothing _, rfl⟩
    · rcases State.setup_next hsetup with ⟨-, rfl⟩ | ⟨-, rfl⟩
      · exact ⟨_, _, .start off v hidle, rfl⟩
      · exact ⟨_, _, .nothing _, rfl⟩
    · exact ⟨_, _, .nothing _, s.writeConfig_bufmem _ v⟩
  | mmioRd off =>
    obtain ⟨-, ⟨v, rfl⟩ | rfl⟩ := execMmioRd_next h <;> exact ⟨_, _, .nothing _, rfl⟩
  | portWord w =>
    obtain ⟨-, ⟨-, rfl⟩ | ⟨-, hp⟩⟩ := execPortWord_next h
    · exact ⟨_, _, .nothing _, rfl⟩
    · rcases State.producerHandler_bufmem hp with hm | ⟨htear, hm⟩
      · exact ⟨_, _, .nothing _, hm⟩
      · exact ⟨_, _, .portWord w htear, hm⟩
  | cTake =>
    obtain ⟨-, -, -, -, rfl⟩ := execCTake_next h
    exact ⟨_, _, .nothing _, rfl⟩
  | cDeint =>
    obtain ⟨-, -, hc, ⟨k, rfl⟩ | ⟨u, hu, rfl⟩⟩ := execCDeint_next h
    · exact ⟨_, _, .nothing _, rfl⟩
    · rcases State.deinterleave_ok hu with ⟨-, rfl⟩ | ⟨hchannels, b, -, rfl⟩
      · exact ⟨_, _, .nothing _, rfl⟩
      · exact ⟨_, _, .region _ hc hchannels (deint2_length _ b), rfl⟩
  | cStep c j =>
    obtain ⟨-, -, hc, rfl, -, hstep⟩ := execCStep_next h
    rcases State.filterStep_bufmem hstep with hm | ⟨vs, hlen, hm⟩
    · exact ⟨_, _, .nothing _, hm⟩
    · exact ⟨_, _, .window j vs hc hlen, hm⟩
  | cEmit =>
    obtain ⟨-, -, -, rfl⟩ := execCEmit_next h
    exact ⟨_, _, .nothing _, rfl⟩
  | reset => exact absurd rfl hi

/-- A word that a run of stores changes is one that it stores. -/
theorem Memory.inside_of_read_ne {m : Memory} {a b : Nat} {vs : List Word}
    (h : (m.writeRun a vs).read b ≠ m.read b) : a ≤ b ∧ b < a + vs.length := by
  by_contra hout
  exact h (Memory.read_writeRun_outside m (by omega))

/-! ## The consumer steps (R87, R297) -/

/-- Settles O46: the frame step by step, and the stores from `exec_stores`. -/
theorem consumerStepsFrame : Obligations.ConsumerStepsFrame := by
  intro s i t h hi
  refine ⟨?_, ?_, fun a hne => ?_⟩
  · rcases hi with rfl | rfl | rfl | ⟨c, j, rfl⟩
    · obtain ⟨-, -, -, -, rfl⟩ := execCTake_next h
      rfl
    · obtain ⟨-, -, -, ⟨k, rfl⟩ | ⟨u, hu, rfl⟩⟩ := execCDeint_next h
      · rfl
      · rw [State.deinterleave_frame hu]
        rfl
    · obtain ⟨-, -, -, rfl⟩ := execCEmit_next h
      rfl
    · obtain ⟨-, -, -, -, -, hstep⟩ := execCStep_next h
      rw [State.filterStep_frame hstep]
  · rintro (rfl | rfl | rfl)
    · obtain ⟨-, -, -, -, rfl⟩ := execCTake_next h
      exact ⟨rfl, rfl⟩
    · obtain ⟨-, -, -, ⟨k, rfl⟩ | ⟨u, hu, rfl⟩⟩ := execCDeint_next h
      · exact ⟨rfl, rfl⟩
      · rw [State.deinterleave_frame hu]
        exact ⟨rfl, rfl⟩
    · obtain ⟨-, -, -, rfl⟩ := execCEmit_next h
      exact ⟨rfl, rfl⟩
  · have hreset : i ≠ .reset := by rcases hi with rfl | rfl | rfl | ⟨c, j, rfl⟩ <;> nofun
    obtain ⟨b, vs, hstores, hm⟩ := exec_stores h hreset
    rw [hm] at hne
    obtain ⟨hlow, hhigh⟩ := Memory.inside_of_read_ne hne
    cases hstores with
    | nothing => simp at hhigh
    | portWord w _ => simp at hi
    | region _ _ _ hlen => exact .inl ⟨rfl, hlow, hlen ▸ hhigh⟩
    | window j _ _ hlen => exact .inr ⟨s.ch, j, rfl, hlow, hlen ▸ hhigh⟩
    | start off v _ => simp at hi

/-! ## The regions of a running block (R73, R87) -/

/-- The next port word goes into the region ACTIVE: COUNT runs from the region's length down to 1 (R50 a, R143). -/
theorem State.RunInv.fillAddr_bounds {s : State} (h : s.RunInv) :
    s.regionBase s.active ≤ s.fillAddr ∧ s.fillAddr < s.regionBase s.active + s.regionLen := by
  obtain ⟨-, r50, -, -⟩ := h
  obtain ⟨hpos, hle⟩ := r50.a
  have hindex : (s.count - 1).toNat = s.count.toNat - 1 := by bv_omega
  rw [State.fillAddr, hindex]
  omega

/-- CUR, while it is valid, is the base of a region. -/
theorem State.RunInv.held_region {s : State} (h : s.RunInv) (hv : s.curValid = true) :
    ∃ r : BitVec 1, s.cur.toNat = s.regionBase r := by
  obtain ⟨-, -, ho, -⟩ := h
  exact ⟨_, ho.held hv⟩

/-- Where the producer may store, the consumer holds the other region: holding the region ACTIVE is a TEAR (R286). -/
theorem State.RunInv.held_other {s : State} (h : s.RunInv) (htear : s.tears = false) (hv : s.curValid = true) :
    s.cur.toNat = s.regionBase (1#1 - s.active) := by
  obtain ⟨-, -, ho, -⟩ := h
  have hcur := ho.held hv
  split_ifs at hcur with hs
  · simp [State.tears, hv, hcur] at htear
  · exact hcur

/-- Settles O24: the one word stored is in the region ACTIVE, and the published and the held region are the other one. -/
theorem producerWritesOnlyTheActiveRegion : Obligations.ProducerWritesOnlyTheActiveRegion := by
  intro s w t hinv hf hr h
  have hrun : s.RunInv := hinv.running hr hf
  obtain ⟨hchk, r50, -, -⟩ := hinv.running hr hf
  obtain ⟨-, -, -, -, -, -, -, hapart⟩ := State.geometry hchk hinv.shaped.params
  obtain ⟨b, vs, hstores, hm⟩ := exec_stores h nofun
  rw [hm]
  cases hstores with
  | nothing => exact ⟨fun a hne => absurd rfl hne, fun _ _ _ => rfl, fun _ _ _ => rfl⟩
  | portWord _ htear =>
    have hfill := hrun.fillAddr_bounds
    have hother : ∀ a, a = s.regionBase (1#1 - s.active) → ∀ i < s.regionLen,
        (s.bufmem.writeRun s.fillAddr [w]).read (a + i) = s.bufmem.read (a + i) := by
      rintro _ rfl i hi
      apply Memory.read_writeRun_outside
      have := hapart s.active
      simp only [List.length_singleton]
      omega
    refine ⟨fun a hne => ?_, fun hs => hother _ (r50.b hs), fun hv => hother _ (hrun.held_other htear hv)⟩
    have hinside := Memory.inside_of_read_ne hne
    simp only [List.length_singleton] at hinside
    omega

/-- Settles O57: of a running block every operation stores inside a region or a configured window. -/
theorem runningBlockWritesOnlyItsBufferRegion : Obligations.RunningBlockWritesOnlyItsBufferRegion := by
  intro s i t hinv hf hr hi h a ha
  have hrun : s.RunInv := hinv.running hr hf
  obtain ⟨hchk, r50, -, -⟩ := hinv.running hr hf
  obtain ⟨-, -, -, -, -, -, hregion, -⟩ := State.geometry hchk hinv.shaped.params
  obtain ⟨b, vs, hstores, hm⟩ := exec_stores h hi
  rw [hm]
  apply Memory.read_writeRun_outside
  rw [State.reqSize_eq] at ha
  cases hstores with
  | nothing => exact .inr (Nat.zero_le a)
  | portWord w _ =>
    have hfill := hrun.fillAddr_bounds
    have := hregion s.active
    simp only [List.length_singleton]
    omega
  | region _ hc hchannels hlen =>
    obtain ⟨r, hcur⟩ := hrun.held_region (r50.d.2 (by simp [hc]))
    have hsize : s.regionLen = 2 * s.decimation := by rw [State.regionLen, hchannels]
    have := hregion r
    omega
  | window j _ hc hlen =>
    obtain ⟨hch, -⟩ := r50.e hc
    rw [State.histBase_eq]
    omega
  | start off v hidle => simp [hr] at hidle

/-! ## The parameters and the written marks (R5, R74) -/

theorem State.producerHandler_params_coefs {s t : State} {w : Word} (h : s.producerHandler w = .next t) :
    t.params = s.params ∧ t.s1Coef = s.s1Coef ∧ t.s2Coef = s.s2Coef := by
  rcases State.producerHandler_next h with ⟨-, rfl⟩ | ⟨-, -, ⟨-, rfl⟩ | ⟨-, -, rfl⟩ | ⟨-, -, rfl⟩⟩ <;>
    exact ⟨rfl, rfl, rfl⟩

/-- Every operation but RESET keeps the parameters and the coefficient memories, or is a configuration write. -/
theorem exec_params_coefs {s t : State} {i : Instr} (h : exec i s = .next t) (hi : i ≠ .reset) :
    (t.params = s.params ∧ t.s1Coef = s.s1Coef ∧ t.s2Coef = s.s2Coef) ∨ ∃ r v, t = s.writeConfig r v := by
  have consumer (hc : i = .cTake ∨ i = .cDeint ∨ i = .cEmit ∨ ∃ c j, i = .cStep c j) :
      t.params = s.params ∧ t.s1Coef = s.s1Coef ∧ t.s2Coef = s.s2Coef := by
    obtain ⟨hframe, -, -⟩ := consumerStepsFrame s i t h hc
    rw [hframe]
    exact ⟨rfl, rfl, rfl⟩
  cases i with
  | mmioWr off v =>
    obtain ⟨-, rfl | ⟨-, -, -, hsetup⟩ | ⟨-, rfl⟩⟩ := execMmioWr_next h
    · exact .inl ⟨rfl, rfl, rfl⟩
    · rcases State.setup_next hsetup with ⟨-, rfl⟩ | ⟨-, rfl⟩ <;> exact .inl ⟨rfl, rfl, rfl⟩
    · exact .inr ⟨_, v, rfl⟩
  | mmioRd off =>
    obtain ⟨-, ⟨v, rfl⟩ | rfl⟩ := execMmioRd_next h <;> exact .inl ⟨rfl, rfl, rfl⟩
  | portWord w =>
    obtain ⟨-, ⟨-, rfl⟩ | ⟨-, hp⟩⟩ := execPortWord_next h
    · exact .inl ⟨rfl, rfl, rfl⟩
    · exact .inl (State.producerHandler_params_coefs (s := s.log (.port w)) hp)
  | cTake => exact .inl (consumer (.inl rfl))
  | cDeint => exact .inl (consumer (.inr (.inl rfl)))
  | cStep c j => exact .inl (consumer (.inr (.inr (.inr ⟨c, j, rfl⟩))))
  | cEmit => exact .inl (consumer (.inr (.inr (.inl rfl))))
  | reset => exact absurd rfl hi

/-- A configuration write clears no mark of a coefficient (R251). -/
theorem State.writeConfig_coefs_marked (s : State) (r : MmioReg) (v : Word) (a : Nat) :
    (s.s1Coef.marked a = true → (s.writeConfig r v).s1Coef.marked a = true) ∧
      (s.s2Coef.marked a = true → (s.writeConfig r v).s2Coef.marked a = true) := by
  cases r with
  | s1Coef t => exact ⟨Memory.marked_write_of, id⟩
  | s2Coef k => exact ⟨id, Memory.marked_write_of⟩
  | _ => exact ⟨id, id⟩

/-- Settles O56: outside RESET, memories change by stores alone, and a store only marks. -/
theorem onlyResetClearsWrittenMarks : Obligations.OnlyResetClearsWrittenMarks := by
  intro s i t h
  by_cases hi : i = .reset
  · subst hi
    obtain rfl : s.afterReset (State.resetWith s.params) = t := Host.Outcome.next.inj h
    exact ⟨rfl, fun hne => absurd rfl hne⟩
  obtain ⟨b, vs, -, hm⟩ := exec_stores h hi
  have hbuf (a : Nat) (ha : s.bufmem.marked a = true) : t.bufmem.marked a = true := by
    rw [hm]
    exact Memory.marked_writeRun_of ha
  rcases exec_params_coefs h hi with ⟨hp, h1, h2⟩ | ⟨r, v, rfl⟩
  · rw [h1, h2]
    exact ⟨hp, fun _ a => ⟨hbuf a, id, id⟩⟩
  · exact ⟨s.writeConfig_params r v, fun _ a => ⟨hbuf a, s.writeConfig_coefs_marked r v a⟩⟩

end Sys2Proof.Machine
end

section
/-! PROOFS. Which accesses can miss: no operation leaves BUFMEM, and a running block with its coefficients written reads
only written words (R72, R288). -/

namespace Sys2Proof.Machine

/-! ## Accesses outside BUFMEM -/

theorem State.unlessFaulted_noSuchWord {s : State} {r : Result} {a : Nat}
    (h : s.unlessFaulted r = .fault (.noSuchWord a)) : s.faulted = none ∧ r = .fault (.noSuchWord a) := by
  cases hf : s.faulted with
  | none => exact ⟨rfl, (State.unlessFaulted_none hf r) ▸ h⟩
  | some k =>
    rw [State.unlessFaulted_some hf] at h
    cases h

theorem State.consumerStep_noSuchWord {s : State} {b : Bool} {r : Result} {a : Nat}
    (h : s.consumerStep b r = .fault (.noSuchWord a)) :
    s.faulted = none ∧ s.runState = .running ∧ b = true ∧ r = .fault (.noSuchWord a) := by
  obtain ⟨hf, h⟩ := State.unlessFaulted_noSuchWord h
  split_ifs at h with hrun
  · exact ⟨hf, hrun.1, hrun.2, h⟩
  · cases h

theorem Halt.outcome_noSuchWord {e : Halt} {s : State} {a : Nat} (h : e.outcome s = .fault (.noSuchWord a)) :
    e = .noWord a := by
  cases e with
  | raised k => cases h
  | noWord b =>
    cases h
    rfl

/-- START answers a next state, whatever its checks find (R256, R283). -/
theorem State.setup_ne_fault (s : State) (f : Fault) : s.setup ≠ .fault f := by
  by_cases hchk : s.setupCheck = .none
  · rw [State.setup_of_none hchk]
    nofun
  · rw [State.setup_of_error hchk]
    nofun

/-- C_STEP's work leaves BUFMEM only if its channel word or its window does. -/
theorem State.filterStep_noSuchWord {s : State} {c : BitVec 1} {j : BitVec 16} {a : Nat}
    (h : s.filterStep c j = .fault (.noSuchWord a)) :
    (∀ w, s.memRead (s.cur.toNat + c.toNat * s.decimation + j.toNat) ≠ .ok w) ∨
      ∀ window, s.memReads (s.histBase c.toNat) 8 ≠ .ok window := by
  by_contra hread
  push Not at hread
  obtain ⟨⟨w, hword⟩, window, hwin⟩ := hread
  cases hstage1 : s.s1Step c w with
  | error e =>
    unfold State.filterStep at h
    simp only [hword, hstage1] at h
    obtain rfl := Halt.outcome_noSuchWord h
    rcases State.s1Step_error hstage1 with ⟨hraised, -⟩ | ⟨-, -, i, hi, hout⟩
    · cases hraised
    · have := State.memReads_bound hwin (by decide)
      omega
  | ok p =>
    obtain ⟨_, coefs, -, hcoefs, -, -⟩ := State.s1Step_ok (t := p.1) (y := p.2) hstage1
    rw [State.filterStep_of hword hwin hcoefs] at h
    split_ifs at h
    cases hout : (s.filtered c w window coefs).s2Output c with
    | error e =>
      obtain ⟨rfl, -⟩ := State.s2Output_error hout
      rw [hout] at h
      cases h
    | ok v =>
      rw [hout] at h
      cases h

/-! ## The reads of a running block -/

/-- In DEINT, C_DEINT's work runs: the held region is in BUFMEM and written (R148, R164). -/
theorem State.Inv.deinterleave_runs {s : State} (h : s.Inv) (hr : s.runState = .running) (hf : s.faulted = none)
    (hc : s.cstate = .deint) : ∃ u, s.deinterleave = .ok u := by
  obtain ⟨hchk, r50, -, hw⟩ := h.running hr hf
  have hrun : s.RunInv := h.running hr hf
  have hv : s.curValid = true := r50.d.2 (by simp [hc])
  obtain ⟨-, -, -, -, hfit, -, hregion, -⟩ := State.geometry hchk h.shaped.params
  obtain ⟨r, hcur⟩ := hrun.held_region hv
  cases hd : s.deinterleave with
  | ok u => exact ⟨u, rfl⟩
  | error e =>
    obtain ⟨-, i, hi, ⟨-, hunmarked⟩ | ⟨a, -, hout⟩⟩ := State.deinterleave_error hd
    · simp [hw.held hv i hi] at hunmarked
    · have := hregion r
      omega

/-- From a state of the invariant no operation forms an address outside BUFMEM (R72). -/
theorem exec_ne_noSuchWord {s : State} (h : s.Inv) (i : Instr) (a : Nat) :
    exec i s ≠ .fault (.noSuchWord a) := by
  intro e
  cases i with
  | mmioWr off v =>
    obtain ⟨-, e⟩ := State.unlessFaulted_noSuchWord e
    split at e <;> split_ifs at e
    exact s.setup_ne_fault _ e
  | mmioRd off =>
    obtain ⟨-, e⟩ := State.unlessFaulted_noSuchWord e
    cases hread : s.readReg (mmioReg s.params.s2TapsMax off) with
    | ok v =>
      rw [hread] at e
      cases e
    | error k =>
      obtain rfl := State.readReg_error hread
      rw [hread] at e
      cases e
  | portWord w =>
    obtain ⟨hf, e⟩ := State.unlessFaulted_noSuchWord e
    have hlog : (s.log (.port w)).Inv := h.of_frame rfl
    dsimp only at e
    split_ifs at e with harmed
    have hr : s.runState = .running := beq_iff_eq.1 harmed
    have hrun : (s.log (.port w)).RunInv := hlog.running hr hf
    obtain ⟨hchk, -⟩ := hlog.running hr hf
    obtain ⟨-, -, -, -, hfit, -, hregion, -⟩ := State.geometry hchk hlog.shaped.params
    have hfill := hrun.fillAddr_bounds
    have := hregion (s.log (.port w)).active
    rw [State.producerHandler_eq] at e
    split_ifs at e
    omega
  | cTake =>
    obtain ⟨-, -, -, e⟩ := State.consumerStep_noSuchWord e
    cases e
  | cDeint =>
    obtain ⟨hf, hr, hc, e⟩ := State.consumerStep_noSuchWord e
    obtain ⟨u, hu⟩ := h.deinterleave_runs hr hf (beq_iff_eq.1 hc)
    rw [hu] at e
    cases e
  | cStep c j =>
    obtain ⟨hf, hr, henabled, e⟩ := State.consumerStep_noSuchWord e
    simp only [Bool.and_eq_true, beq_iff_eq] at henabled
    obtain ⟨⟨hc, rfl⟩, rfl⟩ := henabled
    obtain ⟨⟨w, hword⟩, window, hwin⟩ := h.filter_reads hr hf hc
    rcases State.filterStep_noSuchWord e with hmiss | hmiss
    · exact hmiss w hword
    · exact hmiss window hwin
  | cEmit =>
    obtain ⟨-, -, -, e⟩ := State.consumerStep_noSuchWord e
    cases e
  | reset => cases e

/-- With every coefficient written, the enabled C_STEP raises no model fault: every word it reads is written (R226,
R323). -/
theorem State.Inv.filterStep_faulted {s t : State} (h : s.Inv) (hr : s.runState = .running) (hf : s.faulted = none)
    (hc : s.cstate = .filt) (hcoefs : s.coefsWritten) (e : s.filterStep s.ch s.wix = .next t) : t.faulted = none := by
  obtain ⟨h1, h2⟩ := hcoefs
  obtain ⟨⟨w, hword⟩, window, hwin⟩ := h.filter_reads hr hf hc
  obtain ⟨k1, hk1⟩ : ∃ k1, readCoefs s.s1Coef 0 256 = .ok k1 :=
    readCoefs_of_marked fun i hi => by simpa using h1 i hi
  obtain ⟨k2, hk2⟩ : ∃ k2, readCoefs s.s2Coef 0 s.ntaps.toNat = .ok k2 :=
    readCoefs_of_marked fun k hk => by simpa using h2 k hk
  rw [State.filterStep_of hword hwin hk1, State.s2Output_of (s := s.filtered s.ch w window k1) hk2] at e
  split_ifs at e
  · obtain rfl := Host.Outcome.next.inj e
    exact (State.advance_faulted _ _ _).trans hf
  · obtain rfl := Host.Outcome.next.inj e
    exact (State.advance_faulted _ _ _).trans hf

/-- The producer handler reads no word of BUFMEM, so it raises no UNINIT_READ (R143, R286, R287). -/
theorem State.producerHandler_faulted {s t : State} {w : Word} (hf : s.faulted = none)
    (h : s.producerHandler w = .next t) : t.faulted ≠ some .uninitRead := by
  rcases State.producerHandler_next h with ⟨-, rfl⟩ | ⟨-, -, ⟨-, rfl⟩ | ⟨-, -, rfl⟩ | ⟨-, -, rfl⟩⟩
  · nofun
  · exact fun hu => nomatch hf.symm.trans hu
  · nofun
  · exact fun hu => nomatch hf.symm.trans hu

/-- Settles O58: the bounds from the invariant's regions, and every word the block itself reads from its written marks. -/
theorem onlyUnwrittenCoefficientsAreReadUninitialised : Obligations.OnlyUnwrittenCoefficientsAreReadUninitialised := by
  refine ⟨fun s i a h => exec_ne_noSuchWord h i a, fun s i t h hf hr hcoefs e hu => ?_⟩
  have hclean (ht : t.faulted = none) : False := nomatch ht.symm.trans hu
  cases i with
  | mmioWr off v =>
    obtain ⟨-, rfl | ⟨hidle, -⟩ | ⟨hidle, -⟩⟩ := execMmioWr_next e
    · exact (hclean hf).elim
    · simp [hr] at hidle
    · simp [hr] at hidle
  | mmioRd off => exact ⟨off, rfl⟩
  | portWord w =>
    obtain ⟨-, ⟨-, rfl⟩ | ⟨-, hp⟩⟩ := execPortWord_next e
    · exact (hclean hf).elim
    · exact absurd hu (State.producerHandler_faulted (s := s.log (.port w)) hf hp)
  | cTake =>
    obtain ⟨-, -, -, -, rfl⟩ := execCTake_next e
    exact (hclean hf).elim
  | cDeint =>
    obtain ⟨-, -, hc, e⟩ := (State.consumerStep_next ..).1 e
    obtain ⟨u, hu'⟩ := h.deinterleave_runs hr hf (beq_iff_eq.1 hc)
    rw [hu'] at e
    obtain rfl := Host.Outcome.next.inj e
    rw [State.deinterleave_frame hu'] at hclean
    exact (hclean hf).elim
  | cStep c j =>
    obtain ⟨-, -, hc, rfl, rfl, hstep⟩ := execCStep_next e
    exact (hclean (h.filterStep_faulted hr hf hc hcoefs hstep)).elim
  | cEmit =>
    obtain ⟨-, -, -, rfl⟩ := execCEmit_next e
    exact (hclean hf).elim
  | reset =>
    obtain rfl : s.afterReset (State.resetWith s.params) = t := Host.Outcome.next.inj e
    exact (hclean rfl).elim

end Sys2Proof.Machine
end

section
/-! PROOFS. Decoding and encoding a sequence of words (R101 to R108). `decodeAll_encodeAll_append` says what the decoder
makes of encoded operations, and `eq_encodeAll_append` that every sequence begins with all it can read of them. -/

namespace Sys2Proof

/-- The words of one well-formed operation decode to it, whatever follows them. -/
theorem decodeAll_encode_append {i : Instr} (h : i.wellFormed = true) (rest : List Word) :
    decodeAll (encode i ++ rest) = (decodeAll rest).after i := by
  cases i with
  | mmioWr off data => exact Laws.RoundTrip.mmioWr off data h rest
  | mmioRd off => exact Laws.RoundTrip.mmioRd off h rest
  | portWord w => exact Laws.RoundTrip.portWord w h rest
  | cTake => exact Laws.RoundTrip.cTake h rest
  | cDeint => exact Laws.RoundTrip.cDeint h rest
  | cStep c j => exact Laws.RoundTrip.cStep c j h rest
  | cEmit => exact Laws.RoundTrip.cEmit h rest
  | reset => exact Laws.RoundTrip.reset h rest

theorem encodeAll_cons (i : Instr) (is : List Instr) : encodeAll (i :: is) = encode i ++ encodeAll is :=
  List.flatMap_cons

/-- The words of well-formed operations decode to them, whatever follows them. -/
theorem decodeAll_encodeAll_append {is : List Instr} (h : ∀ i ∈ is, i.wellFormed = true) (rest : List Word) :
    decodeAll (encodeAll is ++ rest) = is.foldr Verdict.after (decodeAll rest) := by
  induction is with
  | nil => rfl
  | cons i is ih =>
    obtain ⟨hi, his⟩ := List.forall_mem_cons.1 h
    rw [encodeAll_cons, List.append_assoc, decodeAll_encode_append hi, ih his, List.foldr_cons]

theorem Verdict.foldr_after_operations (is js : List Instr) :
    is.foldr Verdict.after (.operations js) = .operations (is ++ js) := by
  induction is with
  | nil => rfl
  | cons i is ih => rw [List.foldr_cons, ih, Verdict.after_operations, List.cons_append]

theorem Verdict.foldr_after_invalid (is : List Instr) (k : Nat) :
    is.foldr Verdict.after (.invalid k) = .invalid ((encodeAll is).length + k) := by
  induction is with
  | nil => simp [encodeAll]
  | cons i is ih =>
    rw [List.foldr_cons, ih, Verdict.after_invalid, encodeAll_cons, List.length_append, encode_length, Nat.add_assoc]

/-- The words of well-formed operations decode to exactly these operations. -/
theorem decodeAll_encodeAll {is : List Instr} (h : ∀ i ∈ is, i.wellFormed = true) :
    decodeAll (encodeAll is) = .operations is := by
  have hdecode := decodeAll_encodeAll_append h []
  rwa [decodeAll, Verdict.foldr_after_operations, List.append_nil, List.append_nil] at hdecode

/-- INVALID words after well-formed operations are found where they stand. -/
theorem decodeAll_encodeAll_append_invalid {is : List Instr} (h : ∀ i ∈ is, i.wellFormed = true) {rest : List Word}
    (hbad : decodeAll rest = .invalid 0) : decodeAll (encodeAll is ++ rest) = .invalid (encodeAll is).length := by
  rw [decodeAll_encodeAll_append h, hbad, Verdict.foldr_after_invalid, Nat.add_zero]

/-- Every sequence is the words of well-formed operations, and then either at its end or INVALID at once. -/
theorem eq_encodeAll_append (ws : List Word) :
    ∃ is rest, (∀ i ∈ is, i.wellFormed = true) ∧ ws = encodeAll is ++ rest ∧
      (rest = [] ∨ decodeAll rest = .invalid 0) := by
  induction ws using decodeAll_induct with
  | nil => exact ⟨[], [], by simp, rfl, .inl rfl⟩
  | bad w ws hbad => exact ⟨[], w :: ws, by simp, rfl, .inr hbad⟩
  | op i rest hi ih =>
    obtain ⟨is, tail, his, rfl, htail⟩ := ih
    refine ⟨i :: is, tail, List.forall_mem_cons.2 ⟨hi, his⟩, ?_, htail⟩
    rw [encodeAll_cons, List.append_assoc]

/-- A sequence decodes to operations exactly when it is their words and they are well-formed. -/
theorem decodeAll_eq_operations_iff {ws : List Word} {is : List Instr} :
    decodeAll ws = .operations is ↔ encodeAll is = ws ∧ ∀ i ∈ is, i.wellFormed = true := by
  constructor
  · intro h
    obtain ⟨js, rest, hjs, rfl, rfl | hbad⟩ := eq_encodeAll_append ws
    · rw [List.append_nil, decodeAll_encodeAll hjs] at h
      obtain rfl : js = is := Verdict.operations.inj h
      exact ⟨(List.append_nil _).symm, hjs⟩
    · rw [decodeAll_encodeAll_append_invalid hjs hbad] at h
      cases h
  · rintro ⟨rfl, his⟩
    exact decodeAll_encodeAll his

/-- A sequence that is INVALID at `k` is the words of well-formed operations up to there, and INVALID at once from there. -/
theorem decodeAll_eq_invalid {ws : List Word} {k : Nat} (h : decodeAll ws = .invalid k) :
    ∃ is rest, (∀ i ∈ is, i.wellFormed = true) ∧ ws = encodeAll is ++ rest ∧ decodeAll rest = .invalid 0 ∧
      k = (encodeAll is).length := by
  obtain ⟨is, rest, his, rfl, rfl | hbad⟩ := eq_encodeAll_append ws
  · rw [List.append_nil, decodeAll_encodeAll his] at h
    cases h
  · rw [decodeAll_encodeAll_append_invalid his hbad] at h
    exact ⟨is, rest, his, rfl, hbad, (Verdict.invalid.inj h).symm⟩

/-- What stands behind the first operation's words decodes to the other operations. -/
theorem decodeAll_drop {ws : List Word} {i : Instr} {is : List Instr} (h : decodeAll ws = .operations (i :: is)) :
    decodeAll (ws.drop i.length) = .operations is := by
  obtain ⟨rfl, hwf⟩ := decodeAll_eq_operations_iff.1 h
  rw [encodeAll_cons, ← encode_length i, List.drop_left]
  exact decodeAll_encodeAll (List.forall_mem_cons.1 hwf).2

/-- Settles O1: the round trip of one operation, carried over the list by `decodeAll_encodeAll_append`. -/
theorem decodeOfEncodeIsTheSequence : Obligations.DecodeOfEncodeIsTheSequence :=
  fun _ h => decodeAll_encodeAll h

/-- Settles O2: `eq_encodeAll_append` splits the sequence where the decoder stops. -/
theorem encodeOfDecodeGivesBackTheWords : Obligations.EncodeOfDecodeGivesBackTheWords := by
  refine ⟨fun ws is h => decodeAll_eq_operations_iff.1 h, fun ws k h => ?_⟩
  obtain ⟨is, rest, his, rfl, hbad, rfl⟩ := decodeAll_eq_invalid h
  have hrest : rest ≠ [] := by
    rintro rfl
    cases hbad
  refine ⟨?_, ⟨is, ?_⟩, ?_⟩
  · rw [List.length_append]
    exact Nat.lt_add_of_pos_right (List.length_pos_iff.2 hrest)
  · rw [List.take_left]
    exact decodeAll_encodeAll his
  · rw [List.drop_left]
    exact hbad

/-- Settles O5: each sequence of R113 is decoded. -/
theorem encodingExamplesDecode : Obligations.EncodingExamplesDecode := by
  unfold Obligations.EncodingExamplesDecode
  decide

end Sys2Proof
end

section
/-! PROOFS. A step runs the first pending operation, and a loaded program its operations in order (R107, R292, R325). -/

namespace Sys2Proof.Machine

theorem step_of_operations {s : State} {i : Instr} {is : List Instr} (h : decodeAll s.stimulus = .operations (i :: is)) :
    step s = exec i (s.consume i) := by
  rw [step, State.fetch, h]

theorem step_of_invalid {s : State} {k : Nat} (h : decodeAll s.stimulus = .invalid k) :
    step s = .refused (.invalidSequence k) := by
  rw [step, State.fetch, h]

theorem step_of_usedUp {s : State} (h : s.stimulus = []) : step s = .next s := by
  rw [step, State.fetch, h, decodeAll]

/-- Settles O8: the step lemmas, and `decodeAll_drop` for the words left. -/
theorem stepRunsTheDecodedOperation : Obligations.StepRunsTheDecodedOperation :=
  ⟨fun _ _ _ h => ⟨step_of_operations h, decodeAll_drop h⟩, fun _ h => step_of_usedUp h⟩

/-- Settles O9, by induction on the operations: each runs alike whatever is pending behind it (`exec_load`). -/
theorem loadedProgramRunsItsOperationsInOrder : Obligations.LoadedProgramRunsItsOperationsInOrder := by
  intro s is h
  induction is generalizing s with
  | nil =>
    obtain ⟨hempty, -⟩ := decodeAll_eq_operations_iff.1 h
    have hs : s.load [] = s := congrArg s.load hempty
    rw [hs]
    rfl
  | cons i is ih =>
    have hpending : step s = exec i (s.load (s.stimulus.drop i.length)) := step_of_operations h
    rw [List.length_cons, runSteps, runOps, hpending, exec_load, exec_load]
    cases exec i s with
    | next t => exact ih (t.load (s.stimulus.drop i.length)) (decodeAll_drop h)
    | fault f => rfl
    | refused r => rfl

end Sys2Proof.Machine
end

section
/-! PROOFS. The opcode table: which words are which operation, and which are INVALID (R100 to R107). -/

namespace Sys2Proof

/-! ## The rows of the table -/

/-- A row of format N: the masked word is the whole word. -/
theorem row_n_iff {op : BitVec 4} {i : Instr} (hencode : encode i = [op ++ 0#28])
    (hdecode : decodeOp (op ++ 0#28) = some (.complete i)) (w : Word) :
    w &&& 0xFFFFFFFF#32 = op ++ 0#28 ↔ decodeOp w = some (.complete i) := by
  rw [show w &&& 0xFFFFFFFF#32 = w from BitVec.and_allOnes (x := w)]
  constructor
  · rintro rfl
    exact hdecode
  · intro h
    exact List.singleton_injective ((decodeOp_complete h).1.symm.trans hencode)

/-- The row of PORT_WORD, format P. -/
theorem row_portWord_iff (w : Word) :
    w &&& 0xFFFFFFFF#32 = 0x3#4 ++ 0#28 ↔ decodeOp w = some (.needsPayload .portWord) := by
  rw [show w &&& 0xFFFFFFFF#32 = w from BitVec.and_allOnes (x := w)]
  constructor
  · rintro rfl
    exact decodeOp_portWord
  · intro h
    exact (List.cons.inj (decodeOp_needsPayload h 0#32).1).1.symm

/-- The row of MMIO_WR, format M. -/
theorem row_mmioWr_iff (w : Word) :
    w &&& 0xFFFFF003#32 = 0x1#4 ++ 0#28 ↔ decodeOp w = some (.needsPayload (.mmioWr (offField w))) := by
  rw [mask_m]
  constructor
  · rintro ⟨hop, hzero⟩
    rw [decodeOp, hop, hzero]
    rfl
  · intro h
    obtain ⟨hencode, haligned⟩ := decodeOp_needsPayload h 0#32
    generalize offField w = off at hencode haligned
    obtain rfl := (List.cons.inj hencode).1
    exact ⟨opField_m 0x1#4 off, (zeroFieldM_m 0x1#4 off).trans haligned⟩

/-- The row of MMIO_RD, format M. -/
theorem row_mmioRd_iff (w : Word) :
    w &&& 0xFFFFF003#32 = 0x2#4 ++ 0#28 ↔ decodeOp w = some (.complete (.mmioRd (offField w))) := by
  rw [mask_m]
  constructor
  · rintro ⟨hop, hzero⟩
    rw [decodeOp, hop, hzero]
    rfl
  · intro h
    obtain ⟨hencode, haligned⟩ := decodeOp_complete h
    generalize offField w = off at hencode haligned
    obtain rfl := (List.cons.inj hencode).1
    exact ⟨opField_m 0x2#4 off, (zeroFieldM_m 0x2#4 off).trans haligned⟩

/-- The row of C_STEP, format S. -/
theorem row_cStep_iff (w : Word) :
    w &&& 0xFFFE0000#32 = 0xA#4 ++ 0#28 ↔ decodeOp w = some (.complete (.cStep (chnField w) (wixField w))) := by
  rw [mask_s]
  constructor
  · rintro ⟨hop, hzero⟩
    rw [decodeOp, hop, hzero]
    rfl
  · intro h
    obtain ⟨hencode, -⟩ := decodeOp_complete h
    generalize chnField w = c, wixField w = j at hencode
    obtain rfl := (List.cons.inj hencode).1
    exact ⟨opField_s 0xA#4 c j, zeroFieldS_s 0xA#4 c j⟩

/-! ## INVALID words -/

/-- A word is valid exactly when its OP is one of a format and the format's Z bits are zero (R101 to R107). -/
theorem decodeOp_ne_none_iff (w : Word) :
    decodeOp w ≠ none ↔
      (opField w ∈ [0x1#4, 0x2#4] ∧ zeroFieldM w = true) ∨
      (opField w ∈ [0x3#4, 0x8#4, 0x9#4, 0xB#4, 0xF#4] ∧ zeroFieldN w = true) ∨
      (opField w = 0xA#4 ∧ zeroFieldS w = true) := by
  unfold decodeOp
  split <;> simp_all [← BitVec.toNat_inj]

/-- Every OP is reserved or one of a format (R106). -/
theorem opcode_cases : ∀ op : BitVec 4,
    op ∈ [0x0#4, 0x4#4, 0x5#4, 0x6#4, 0x7#4, 0xC#4, 0xD#4, 0xE#4] ∨
      op ∈ [0x3#4, 0x8#4, 0x9#4, 0xB#4, 0xF#4] ∨ op ∈ [0x1#4, 0x2#4] ∨ op = 0xA#4 := by decide

/-- A word is INVALID exactly when it has no row's match under the row's mask. -/
theorem decodeOp_eq_none_iff_no_row (w : Word) :
    decodeOp w = none ↔
      ∀ row ∈ [(0xFFFFF003#32, 0x10000000#32), (0xFFFFF003#32, 0x20000000#32), (0xFFFFFFFF#32, 0x30000000#32),
        (0xFFFFFFFF#32, 0x80000000#32), (0xFFFFFFFF#32, 0x90000000#32), (0xFFFE0000#32, 0xA0000000#32),
        (0xFFFFFFFF#32, 0xB0000000#32), (0xFFFFFFFF#32, 0xF0000000#32)], w &&& row.1 ≠ row.2 := by
  have mmioWr : w &&& 0xFFFFF003#32 = 0x10000000#32 ↔ _ := mask_m w 0x1#4
  have mmioRd : w &&& 0xFFFFF003#32 = 0x20000000#32 ↔ _ := mask_m w 0x2#4
  have portWord : w &&& 0xFFFFFFFF#32 = 0x30000000#32 ↔ _ := mask_n w 0x3#4
  have cTake : w &&& 0xFFFFFFFF#32 = 0x80000000#32 ↔ _ := mask_n w 0x8#4
  have cDeint : w &&& 0xFFFFFFFF#32 = 0x90000000#32 ↔ _ := mask_n w 0x9#4
  have cStep : w &&& 0xFFFE0000#32 = 0xA0000000#32 ↔ _ := mask_s w 0xA#4
  have cEmit : w &&& 0xFFFFFFFF#32 = 0xB0000000#32 ↔ _ := mask_n w 0xB#4
  have reset : w &&& 0xFFFFFFFF#32 = 0xF0000000#32 ↔ _ := mask_n w 0xF#4
  rw [← not_iff_not, ← ne_eq, decodeOp_ne_none_iff]
  simp only [List.forall_mem_cons, ne_eq, mmioWr, mmioRd, portWord, cTake, cDeint, cStep, cEmit, reset]
  generalize opField w = op
  rcases opcode_cases op with h | h | h | rfl
  · fin_cases h <;> simp
  · fin_cases h <;> simp
  · fin_cases h <;> simp
  · simp

/-- Settles O3: row by row, and `decodeOp_eq_none_iff_no_row`. -/
theorem decoderFollowsTheOpcodeTable : Obligations.DecoderFollowsTheOpcodeTable := fun w =>
  ⟨row_mmioWr_iff w, row_mmioRd_iff w, row_portWord_iff w, row_n_iff (op := 0x8#4) rfl decodeOp_cTake w,
    row_n_iff (op := 0x9#4) rfl decodeOp_cDeint w, row_cStep_iff w, row_n_iff (op := 0xB#4) rfl decodeOp_cEmit w,
    row_n_iff (op := 0xF#4) rfl decodeOp_reset w, decodeOp_eq_none_iff_no_row w⟩

/-- A word is INVALID exactly when its OP is reserved or a Z bit of its format is set (R107). -/
theorem decodeOp_eq_none_iff (w : Word) :
    decodeOp w = none ↔
      opField w ∈ [0x0#4, 0x4#4, 0x5#4, 0x6#4, 0x7#4, 0xC#4, 0xD#4, 0xE#4] ∨
      (opField w ∈ [0x3#4, 0x8#4, 0x9#4, 0xB#4, 0xF#4] ∧ w.extractLsb' 0 28 ≠ 0#28) ∨
      (opField w ∈ [0x1#4, 0x2#4] ∧ (w.extractLsb' 12 16 ≠ 0#16 ∨ w.extractLsb' 0 2 ≠ 0#2)) ∨
      (opField w = 0xA#4 ∧ w.extractLsb' 17 11 ≠ 0#11) := by
  rw [← not_iff_not, ← ne_eq, decodeOp_ne_none_iff, zeroFieldM, zeroFieldN, zeroFieldS]
  generalize opField w = op
  rcases opcode_cases op with h | h | h | rfl
  · fin_cases h <;> simp
  · fin_cases h <;> simp
  · fin_cases h <;> simp
  · simp

/-- OP 0x1 and 0x3 want a payload word (R100). -/
theorem decodeOp_of_payload_opcode {w : Word} (h : opField w ∈ [0x1#4, 0x3#4]) :
    decodeOp w = none ∨ ∃ p, decodeOp w = some (.needsPayload p) := by
  simp only [List.mem_cons, List.not_mem_nil, or_false] at h
  rcases h with hop | hop <;> rw [decodeOp, hop]
  · cases zeroFieldM w
    · exact .inl rfl
    · exact .inr ⟨_, rfl⟩
  · cases zeroFieldN w
    · exact .inl rfl
    · exact .inr ⟨_, rfl⟩

/-- A sequence that ends where a payload word is due is INVALID at its operation word (R107). -/
theorem decodeAll_singleton_of_payload_opcode {w : Word} (h : opField w ∈ [0x1#4, 0x3#4]) :
    decodeAll [w] = .invalid 0 := by
  rcases decodeOp_of_payload_opcode h with hw | ⟨p, hw⟩
  · exact decodeAll_invalid hw []
  · exact decodeAll_noPayload hw

/-- Settles O4: the INVALID words, the missing payload behind well-formed operations, and the refused step. -/
theorem invalidWordsRefuseTheWholeSequence : Obligations.InvalidWordsRefuseTheWholeSequence :=
  ⟨decodeOp_eq_none_iff,
    fun _ _ his hop => decodeAll_encodeAll_append_invalid his (decodeAll_singleton_of_payload_opcode hop),
    fun _ _ h => Machine.step_of_invalid h⟩

end Sys2Proof
end

section
/-! PROOFS. What the assembler makes of each line, and the expansion of `consume` (R111, R112). -/

namespace Sys2Proof.Machine

/-! ## Operands put in place -/

theorem toNat_append_zero {n : Nat} (a : BitVec n) (m : Nat) : (a ++ 0#m).toNat = a.toNat <<< m := by
  rw [BitVec.toNat_append, BitVec.toNat_ofNat, Nat.zero_mod, Nat.or_zero]

/-- A format M word is its OP word with the offset in the low bits (R102). -/
theorem formatM_eq_or (op : BitVec 4) {n : Nat} (h : n < 0x1000) :
    op ++ 0#16 ++ BitVec.ofNat 12 n = (op ++ 0#28 : Word) ||| BitVec.ofNat 32 n := by
  have hword : (op ++ 0#16 ++ BitVec.ofNat 12 n : Word).toNat = (op ++ 0#16).toNat <<< 12 ||| n % 2 ^ 12 :=
    BitVec.toNat_append (op ++ 0#16) (BitVec.ofNat 12 n)
  have hop : (op ++ 0#28 : Word).toNat = op.toNat <<< 28 := toNat_append_zero op 28
  apply BitVec.eq_of_toNat_eq
  rw [hword, BitVec.toNat_or, hop, toNat_append_zero, ← Nat.shiftLeft_add, BitVec.toNat_ofNat,
    Nat.mod_eq_of_lt (show n < 2 ^ 12 by omega), Nat.mod_eq_of_lt (show n < 2 ^ 32 by omega)]

/-- A format S word is its OP word with the channel at bit 16 and the word index in the low bits (R105). -/
theorem formatS_eq_or (op : BitVec 4) {c j : Nat} (hc : c ≤ 1) (hj : j ≤ 65535) :
    op ++ 0#11 ++ BitVec.ofNat 1 c ++ BitVec.ofNat 16 j =
      (op ++ 0#28 : Word) ||| (BitVec.ofNat 32 c <<< 16) ||| BitVec.ofNat 32 j := by
  have hword : (op ++ 0#11 ++ BitVec.ofNat 1 c ++ BitVec.ofNat 16 j : Word).toNat =
      (op ++ 0#11 ++ BitVec.ofNat 1 c).toNat <<< 16 ||| j % 2 ^ 16 :=
    BitVec.toNat_append (op ++ 0#11 ++ BitVec.ofNat 1 c) (BitVec.ofNat 16 j)
  have hop : (op ++ 0#28 : Word).toNat = op.toNat <<< 28 := toNat_append_zero op 28
  have hchannel : c <<< 16 < 2 ^ 32 := by
    rw [Nat.shiftLeft_eq]
    omega
  apply BitVec.eq_of_toNat_eq
  rw [hword, BitVec.toNat_append, toNat_append_zero, BitVec.toNat_or, BitVec.toNat_or, hop, BitVec.toNat_shiftLeft,
    BitVec.toNat_ofNat, BitVec.toNat_ofNat, BitVec.toNat_ofNat, Nat.mod_eq_of_lt (show c < 2 ^ 1 by omega),
    Nat.mod_eq_of_lt (show c < 2 ^ 32 by omega), Nat.mod_eq_of_lt hchannel, Nat.mod_eq_of_lt (show j < 2 ^ 16 by omega),
    Nat.mod_eq_of_lt (show j < 2 ^ 32 by omega), Nat.shiftLeft_or_distrib, ← Nat.shiftLeft_add, ← Nat.shiftLeft_add]

/-! ## One line -/

theorem assemble_of_expand_some {line : AsmLine} {i : Instr} (h : line.expand = [some i]) :
    assemble [line] = some (encode i) := by
  simp [assemble, h, allSome, encodeAll]

theorem assemble_of_expand_none {line : AsmLine} (h : line.expand = [none]) : assemble [line] = none := by
  simp [assemble, h, allSome]

theorem AsmOffset.encodable_byte {n : Nat} (haligned : n % 4 = 0) (hlt : n < 0x1000) :
    (AsmOffset.byte n).encodable = some (BitVec.ofNat 12 n) :=
  if_pos ⟨haligned, hlt⟩

theorem AsmOffset.encodable_byte_none {n : Nat} (h : n % 4 ≠ 0 ∨ 0x1000 ≤ n) : (AsmOffset.byte n).encodable = none :=
  if_neg fun ⟨haligned, hlt⟩ => h.elim (· haligned) (Nat.not_le.2 hlt)

theorem asmStep_of_le {c j : Nat} (hc : c ≤ 1) (hj : j ≤ 65535) :
    asmStep c j = some (.cStep (BitVec.ofNat 1 c) (BitVec.ofNat 16 j)) :=
  if_pos ⟨hc, hj⟩

theorem asmStep_none {c j : Nat} (h : 1 < c ∨ 65535 < j) : asmStep c j = none :=
  if_neg fun ⟨hc, hj⟩ => h.elim (Nat.not_lt.2 hc) (Nat.not_lt.2 hj)

theorem assemble_wr {n : Nat} (v : Word) (haligned : n % 4 = 0) (hlt : n < 0x1000) :
    assemble [.wr (.byte n) v] = some [0x10000000#32 ||| BitVec.ofNat 32 n, v] := by
  have hexpand : (AsmLine.wr (.byte n) v).expand = [some (.mmioWr (BitVec.ofNat 12 n) v)] := by
    rw [AsmLine.expand, asmWrite, AsmOffset.encodable_byte haligned hlt]
    rfl
  rw [assemble_of_expand_some hexpand, encode, formatM_eq_or 0x1#4 hlt]
  rfl

theorem assemble_rd {n : Nat} (haligned : n % 4 = 0) (hlt : n < 0x1000) :
    assemble [.rd (.byte n)] = some [0x20000000#32 ||| BitVec.ofNat 32 n] := by
  have hexpand : (AsmLine.rd (.byte n)).expand = [some (.mmioRd (BitVec.ofNat 12 n))] := by
    rw [AsmLine.expand, AsmOffset.encodable_byte haligned hlt]
    rfl
  rw [assemble_of_expand_some hexpand, encode, formatM_eq_or 0x2#4 hlt]
  rfl

theorem assemble_wr_none {n : Nat} (v : Word) (h : n % 4 ≠ 0 ∨ 0x1000 ≤ n) : assemble [.wr (.byte n) v] = none := by
  apply assemble_of_expand_none
  rw [AsmLine.expand, asmWrite, AsmOffset.encodable_byte_none h]
  rfl

theorem assemble_rd_none {n : Nat} (h : n % 4 ≠ 0 ∨ 0x1000 ≤ n) : assemble [.rd (.byte n)] = none := by
  apply assemble_of_expand_none
  rw [AsmLine.expand, AsmOffset.encodable_byte_none h]
  rfl

theorem assemble_step {c j : Nat} (hc : c ≤ 1) (hj : j ≤ 65535) :
    assemble [.step c j] = some [0xA0000000#32 ||| (BitVec.ofNat 32 c <<< 16) ||| BitVec.ofNat 32 j] := by
  have hexpand : (AsmLine.step c j).expand = [some (.cStep (BitVec.ofNat 1 c) (BitVec.ofNat 16 j))] := by
    rw [AsmLine.expand, asmStep_of_le hc hj]
  rw [assemble_of_expand_some hexpand, encode, formatS_eq_or 0xA#4 hc hj]
  rfl

theorem assemble_step_none {c j : Nat} (h : 1 < c ∨ 65535 < j) : assemble [.step c j] = none := by
  apply assemble_of_expand_none
  rw [AsmLine.expand, asmStep_none h]

/-- Settles O6: one lemma per line; the lines without a checked operand and the symbols are read off. -/
theorem assemblerEncodesOrRejectsEachLine : Obligations.AssemblerEncodesOrRejectsEachLine :=
  ⟨fun _ v haligned hlt => ⟨assemble_wr v haligned hlt, assemble_rd haligned hlt⟩,
    fun _ v h => ⟨assemble_wr_none v h, assemble_rd_none h⟩,
    fun _ _ hc hj => assemble_step hc hj,
    fun _ _ h => assemble_step_none h,
    fun _ => rfl, rfl, rfl, fun _ => ⟨rfl, rfl⟩⟩

/-! ## The expansion of `consume` -/

/-- The filter steps of channel `c`, from the oldest of its `d` words (R112). -/
def channelSteps (d c : Nat) : List Instr :=
  (List.range d).reverse.map (fun j => .cStep (BitVec.ofNat 1 c) (BitVec.ofNat 16 j))

theorem channelSteps_succ (d c : Nat) :
    channelSteps (d + 1) c = .cStep (BitVec.ofNat 1 c) (BitVec.ofNat 16 d) :: channelSteps d c := by
  simp [channelSteps, List.range_succ]

theorem allSome_map_some (is : List Instr) : allSome (is.map some) = some is := by
  induction is with
  | nil => rfl
  | cons i is ih => rw [List.map_cons, allSome, ih, Option.map_some]

theorem asmSteps_eq {c d : Nat} (hc : c ≤ 1) (hd : d ≤ 65536) : asmSteps c d = (channelSteps d c).map some := by
  induction d with
  | zero => rfl
  | succ d ih => rw [asmSteps, asmStep_of_le hc (by omega), ih (by omega), channelSteps_succ, List.map_cons]

theorem asmChannels_eq {d c n : Nat} (hc : c + n ≤ 2) (hd : d ≤ 65536) :
    asmChannels d c n = ((List.range' c n).flatMap (channelSteps d)).map some := by
  induction n generalizing c with
  | zero => rfl
  | succ n ih =>
    rw [asmChannels, asmSteps_eq (by omega) hd, ih (by omega), List.range'_succ, List.flatMap_cons, List.map_append]

/-- Settles O7: none of the lines is rejected, and the channels follow each other from 0. -/
theorem consumeExpandsToTheConsumerSteps : Obligations.ConsumeExpandsToTheConsumerSteps := by
  intro c d hc hd
  have hexpand : (AsmLine.consume c d).expand = (consumeOps c d).map some := by
    rw [AsmLine.expand, asmChannels_eq (by omega) hd, ← List.range_eq_range', consumeOps, List.map_append,
      List.map_append]
    rfl
  rw [hexpand, allSome_map_some]

end Sys2Proof.Machine
end

section
/-! PROOFS. The packing of STATUS and CFG (R109). -/

namespace Sys2Proof.Machine

/-- A field put above the bits in use adds its value times its place. -/
theorem toNat_or_field {n : Nat} {w : Word} {k : Nat} (a : BitVec n) (hw : w.toNat < 2 ^ k) (hk : k + n ≤ 32) :
    (w ||| (a.setWidth 32 <<< k)).toNat = w.toNat + a.toNat * 2 ^ k := by
  have hfits : a.toNat * 2 ^ k < 2 ^ 32 :=
    calc a.toNat * 2 ^ k < 2 ^ n * 2 ^ k := Nat.mul_lt_mul_of_pos_right a.isLt (Nat.two_pow_pos k)
      _ = 2 ^ (k + n) := by rw [← Nat.pow_add, Nat.add_comm]
      _ ≤ 2 ^ 32 := Nat.pow_le_pow_right (by decide) hk
  have ha : a.toNat < 2 ^ 32 := a.isLt.trans_le (Nat.pow_le_pow_right (by decide) (by omega))
  rw [BitVec.toNat_or, BitVec.toNat_shiftLeft, BitVec.toNat_setWidth, Nat.mod_eq_of_lt ha, Nat.shiftLeft_eq,
    Nat.mod_eq_of_lt hfits, Nat.or_comm, ← Nat.shiftLeft_eq, ← Nat.shiftLeft_add_eq_or_of_lt hw, Nat.shiftLeft_eq,
    Nat.add_comm]

theorem State.statusWord_toNat (s : State) :
    s.statusWord.toNat = s.runState.code.toNat + s.err.code.toNat * 2 ^ 4 + s.cstate.code.toNat * 2 ^ 8
      + s.slotFull.toNat * 2 ^ 10 + s.active.toNat * 2 ^ 11 := by
  have hrun := s.runState.code.isLt
  have herr := s.err.code.isLt
  have hcstate := s.cstate.code.isLt
  have hslot : s.slotFull.toNat ≤ 1 := Bool.toNat_le _
  have run : (s.runState.code.setWidth 32).toNat = s.runState.code.toNat := by
    rw [BitVec.toNat_setWidth]
    omega
  have err := toNat_or_field (k := 4) s.err.code (w := s.runState.code.setWidth 32) (by omega) (by omega)
  have cstate := toNat_or_field (k := 8) s.cstate.code (by rw [err]; omega) (by omega)
  have slot := toNat_or_field (k := 10) (BitVec.ofBool s.slotFull) (by rw [cstate]; omega) (by omega)
  rw [BitVec.toNat_ofBool] at slot
  have active := toNat_or_field (k := 11) s.active (by rw [slot]; omega) (by omega)
  rw [State.statusWord, active, slot, cstate, err, run]

theorem State.cfgWord_toNat (s : State) :
    s.cfgWord.toNat = s.decim.toNat * 2 ^ 16 + s.s2Shift.toNat * 2 ^ 8 + s.channels.toNat := by
  have hchannels := s.channels.isLt
  have hshift := s.s2Shift.isLt
  have channels : (s.channels.setWidth 32).toNat = s.channels.toNat := by
    rw [BitVec.toNat_setWidth]
    omega
  have shift := toNat_or_field (k := 8) s.s2Shift (w := s.channels.setWidth 32) (by omega) (by omega)
  have decim := toNat_or_field (k := 16) s.decim (by rw [shift]; omega) (by omega)
  rw [State.cfgWord, BitVec.or_assoc, BitVec.or_comm, BitVec.or_comm (s.s2Shift.setWidth 32 <<< 8), decim, shift, channels]
  omega

/-- Settles O14: the two packings, and the examples evaluated. -/
theorem statusAndCfgWordsArePacked : Obligations.StatusAndCfgWordsArePacked := by
  refine ⟨fun s => ⟨s.statusWord_toNat, s.cfgWord_toNat⟩, fun s hc hd hs => ?_, fun s hr he hc hs ha => ?_,
    fun s hr he hc hs ha => ?_⟩
  · rw [State.cfgWord, hc, hd, hs]
    rfl
  · rw [State.statusWord, hr, he, hc, hs, ha]
    rfl
  · rw [State.statusWord, hr, he, hc, hs, ha]
    rfl

end Sys2Proof.Machine
end

section
/-! PROOFS. What a port word does, case by case (R142 to R144, R286, R287), and what that makes of one fill (R146). -/

namespace Sys2Proof.Machine

/-! ## One port word -/

/-- TEAR is raised exactly where the consumer holds the region ACTIVE (R286). -/
theorem State.tears_iff (s : State) :
    s.tears = true ↔ s.curValid = true ∧ s.cur.toNat = s.regionBase s.active := by
  simp [State.tears]

theorem State.tears_eq_false_iff (s : State) :
    s.tears = false ↔ ¬(s.curValid = true ∧ s.cur.toNat = s.regionBase s.active) := by
  rw [← State.tears_iff, Bool.not_eq_true]

/-- Outside RUNNING a port word is only recorded (R142). -/
theorem exec_portWord_of_not_running {s : State} (w : Word) (hf : s.faulted = none) (hr : s.runState ≠ .running) :
    exec (.portWord w) s = .next (s.log (.port w)) :=
  (State.unlessFaulted_none hf _).trans (if_neg fun harmed => hr (beq_iff_eq.1 harmed))

section Running

variable {s : State} (w : Word) (hf : s.faulted = none) (hr : s.runState = .running)
include hf hr

/-- In RUNNING a port word runs the handler, once it is recorded (R143). -/
theorem exec_portWord_of_running : exec (.portWord w) s = (s.log (.port w)).producerHandler w :=
  (State.unlessFaulted_none hf _).trans (if_pos (beq_iff_eq.2 hr))

theorem exec_portWord_tear (htear : s.tears = true) :
    exec (.portWord w) s = .next ((s.log (.port w)).raise .tear) := by
  have htear' : (s.log (.port w)).tears = true := htear
  rw [exec_portWord_of_running w hf hr, State.producerHandler_eq, if_pos htear']

variable (htear : s.tears = false) (ha : s.fillAddr < s.params.bufmemWords)
include htear ha

/-- With no TEAR the word is stored; COUNT then says whether the region is full, and the slot what follows (R144). -/
theorem exec_portWord_of_not_tears :
    exec (.portWord w) s =
      if s.count = 1 then
        if s.slotFull then .next (((s.log (.port w)).stored w).raise .slotOverrun)
        else .next (((s.log (.port w)).stored w).publish s.active).swapRegions
      else .next ((s.log (.port w)).stored w) := by
  have htear' : ¬(s.log (.port w)).tears = true := ne_true_of_eq_false htear
  have ha' : (s.log (.port w)).fillAddr < (s.log (.port w)).params.bufmemWords := ha
  rw [exec_portWord_of_running w hf hr, State.producerHandler_eq, if_neg htear', if_pos ha']
  rfl

theorem exec_portWord_stored (hcount : s.count ≠ 1) :
    exec (.portWord w) s = .next ((s.log (.port w)).stored w) := by
  rw [exec_portWord_of_not_tears w hf hr htear ha, if_neg hcount]

theorem exec_portWord_published (hcount : s.count = 1) (hslot : s.slotFull = false) :
    exec (.portWord w) s = .next (((s.log (.port w)).stored w).publish s.active).swapRegions := by
  rw [exec_portWord_of_not_tears w hf hr htear ha, if_pos hcount, if_neg (ne_true_of_eq_false hslot)]

theorem exec_portWord_overrun (hcount : s.count = 1) (hslot : s.slotFull = true) :
    exec (.portWord w) s = .next (((s.log (.port w)).stored w).raise .slotOverrun) := by
  rw [exec_portWord_of_not_tears w hf hr htear ha, if_pos hcount, if_pos hslot]

end Running

/-- What a port word that publishes its region leaves, written out (R143, R144). -/
theorem State.published_eq (s : State) (w : Word) :
    (((s.log (.port w)).stored w).publish s.active).swapRegions =
      { s with
        history := s.history ++ [.port w, .publish (BitVec.ofNat 32 (s.regionBase s.active))]
        bufmem := s.bufmem.write s.fillAddr w
        slotFull := true
        slotAddr := BitVec.ofNat 32 (s.regionBase s.active)
        active := 1#1 - s.active
        count := BitVec.ofNat 18 s.regionLen } := by
  simp [State.ext_iff, State.stored, State.fillAddr]

/-- Settles O20: one case of the handler after the other. -/
theorem portWordEffect : Obligations.PortWordEffect := by
  intro s w hf L base addr
  refine ⟨fun hr => exec_portWord_of_not_running w hf hr, fun hr hv hcur => ?_, fun hr hheld ha => ?_⟩
  · exact ⟨_, exec_portWord_tear w hf hr (s.tears_iff.2 ⟨hv, hcur⟩), rfl, rfl⟩
  have htear : s.tears = false := s.tears_eq_false_iff.2 hheld
  refine ⟨fun hcount => exec_portWord_stored w hf hr htear ha hcount, fun hcount hslot => ?_, fun hcount hslot => ?_⟩
  · rw [exec_portWord_published w hf hr htear ha hcount hslot, State.published_eq]
    rfl
  · exact ⟨_, exec_portWord_overrun w hf hr htear ha hcount hslot, rfl⟩

/-- The frame of the producer handler: the region it fills, the slot and the history (R143, R297). -/
theorem State.producerHandler_frame {s t : State} {w : Word} (h : s.producerHandler w = .next t) :
    t = { s with
      bufmem := t.bufmem, active := t.active, count := t.count, slotFull := t.slotFull, slotAddr := t.slotAddr
      history := t.history, faulted := t.faulted } := by
  rcases State.producerHandler_next h with ⟨-, rfl⟩ | ⟨-, -, ⟨-, rfl⟩ | ⟨-, -, rfl⟩ | ⟨-, -, rfl⟩⟩ <;> rfl

/-- Settles O22: the handler's frame and its one store, and the two cases that raise a model fault. -/
theorem portWordFrame : Obligations.PortWordFrame := by
  refine ⟨fun s w t h => ?_, fun s w hf hr => ⟨fun hheld => ?_, fun hheld hcount hslot ha => ?_⟩⟩
  · obtain ⟨-, ⟨-, rfl⟩ | ⟨hr, hp⟩⟩ := execPortWord_next h
    · exact ⟨rfl, fun _ _ => rfl⟩
    · refine ⟨State.producerHandler_frame (s := s.log (.port w)) hp, fun a ha => ?_⟩
      have hout : a ≠ s.fillAddr := ha.resolve_right fun hnot => hnot hr
      rcases State.producerHandler_bufmem hp with hm | ⟨-, hm⟩
      · rw [hm]
        rfl
      · rw [hm]
        exact Memory.read_write_of_ne _ w hout
  · exact exec_portWord_tear w hf hr (s.tears_iff.2 hheld)
  · have hdown : s.count - 1 = 0#18 := (count_pred_zero _).2 hcount
    rw [exec_portWord_overrun w hf hr (s.tears_eq_false_iff.2 hheld) ha hcount hslot, ← hdown]
    rfl

/-! ## One fill (R146) -/

/-- In a running block the next port word goes to index COUNT - 1 of the region ACTIVE (R50 a, R143). -/
theorem State.Inv.fillAddr_eq {s : State} (h : s.Inv) (hf : s.faulted = none) (hr : s.runState = .running) :
    s.fillAddr = s.regionBase s.active + (s.count.toNat - 1) := by
  obtain ⟨-, r50, -, -⟩ := h.running hr hf
  obtain ⟨hpos, -⟩ := r50.a
  have hindex : (s.count - 1).toNat = s.count.toNat - 1 := by bv_omega
  rw [State.fillAddr, hindex]

/-- In a running block the next port word goes to a word of BUFMEM (R72, R73). -/
theorem State.Inv.fillAddr_lt {s : State} (h : s.Inv) (hf : s.faulted = none) (hr : s.runState = .running) :
    s.fillAddr < s.params.bufmemWords := by
  have hrun : s.RunInv := h.running hr hf
  obtain ⟨hchk, -⟩ := h.running hr hf
  obtain ⟨-, -, -, -, hfit, -, hregion, -⟩ := State.geometry hchk h.shaped.params
  have hfill := hrun.fillAddr_bounds
  have := hregion s.active
  omega

theorem runOps_cons_of_next {i : Instr} {is : List Instr} {s u : State} (h : exec i s = .next u) :
    runOps (i :: is) s = runOps is u := by
  rw [runOps, h]

/-- What the port words `ws`, taken from `s` on, have done within one fill when they leave `t`: they stand at the indices
below COUNT, downwards, nothing from COUNT up is written, and the word for index 0 published the region (R143, R146). -/
structure State.FilledBy (s : State) (ws : List Word) (t : State) : Prop where
  faulted : t.faulted = none
  words : ∀ k (h : k < ws.length), t.bufmem.read (s.regionBase s.active + (s.count.toNat - (k + 1))) = some ws[k]
  above : ∀ i, s.count.toNat ≤ i →
    t.bufmem.read (s.regionBase s.active + i) = s.bufmem.read (s.regionBase s.active + i)
  published : ws.length = s.count.toNat → t.slotFull = true ∧ t.slotAddr.toNat = s.regionBase s.active

/-- One word further: the first of the words goes to index COUNT - 1, which the later ones leave alone. -/
theorem State.FilledBy.cons {s t : State} {w : Word} {ws : List Word}
    (haddr : s.fillAddr = s.regionBase s.active + (s.count.toNat - 1))
    (hcount : ((s.log (.port w)).stored w).count.toNat = s.count.toNat - 1) (hpos : 1 ≤ s.count.toNat)
    (h : ((s.log (.port w)).stored w).FilledBy ws t) : s.FilledBy (w :: ws) t := by
  obtain ⟨hf, hwords, habove, hpub⟩ := h
  rw [hcount] at hwords habove hpub
  have hmem : ((s.log (.port w)).stored w).bufmem = s.bufmem.write s.fillAddr w := rfl
  refine ⟨hf, fun k hk => ?_, fun i hi => ?_, fun hlen => hpub ?_⟩
  · cases k with
    | zero =>
      have hkept := habove (s.count.toNat - 1) (Nat.le_refl _)
      have hindex : ((s.log (.port w)).stored w).regionBase ((s.log (.port w)).stored w).active
        + (s.count.toNat - 1) = s.fillAddr := haddr.symm
      rw [hindex, hmem, Memory.read_write_self] at hkept
      rw [← haddr, hkept]
      rfl
    | succ k =>
      have hword := hwords k (Nat.lt_of_succ_lt_succ hk)
      rwa [show s.count.toNat - 1 - (k + 1) = s.count.toNat - (k + 1 + 1) by omega] at hword
  · refine (habove i (by omega)).trans ?_
    rw [hmem]
    exact Memory.read_write_of_ne _ w (by show s.regionBase s.active + i ≠ _; omega)
  · simp only [List.length_cons] at hlen
    omega

/-- The word for index 0, the slot being empty, fills the region and publishes it (R144). -/
theorem State.Inv.filledBy_last {s : State} (h : s.Inv) (hf : s.faulted = none) (hr : s.runState = .running)
    (hcount : s.count.toNat = 1) (w : Word) :
    s.FilledBy [w] (((s.log (.port w)).stored w).publish s.active).swapRegions := by
  obtain ⟨hchk, -⟩ := h.running hr hf
  obtain ⟨-, -, -, -, hfit, hmax, hregion, -⟩ := State.geometry hchk h.shaped.params
  obtain ⟨-, hend⟩ := hregion s.active
  have haddr := h.fillAddr_eq hf hr
  rw [State.published_eq]
  refine ⟨hf, fun k hk => ?_, fun i hi => ?_, fun _ => ⟨rfl, ?_⟩⟩
  · obtain rfl : k = 0 := by simpa using hk
    rw [← haddr]
    exact Memory.read_write_self _ _ _
  · exact Memory.read_write_of_ne _ w (by omega)
  · exact Nat.mod_eq_of_lt (by omega)

/-- The rest of a fill runs from any COUNT, as long as the region ACTIVE is not held and the slot is empty when its last
word comes. -/
theorem State.Inv.fill_runs {s : State} {ws : List Word} (hinv : s.Inv) (hf : s.faulted = none)
    (hr : s.runState = .running) (htear : s.tears = false) (hlen : ws.length ≤ s.count.toNat)
    (hslot : ws.length = s.count.toNat → s.slotFull = false) :
    ∃ t, runOps (ws.map .portWord) s = .next t ∧ s.FilledBy ws t := by
  induction ws generalizing s with
  | nil =>
    obtain ⟨-, r50, -, -⟩ := hinv.running hr hf
    obtain ⟨hpos, -⟩ := r50.a
    refine ⟨s, rfl, hf, nofun, fun _ _ => rfl, fun h => ?_⟩
    rw [← h] at hpos
    cases hpos
  | cons w ws ih =>
    obtain ⟨-, r50, -, -⟩ := hinv.running hr hf
    obtain ⟨hpos, -⟩ := r50.a
    have ha := hinv.fillAddr_lt hf hr
    simp only [List.length_cons] at hlen hslot
    by_cases hcount : s.count = 1
    · have hone : s.count.toNat = 1 := by rw [hcount]; rfl
      obtain rfl : ws = [] := List.length_eq_zero_iff.1 (by omega)
      have e := exec_portWord_published w hf hr htear ha hcount (hslot hone.symm)
      exact ⟨_, runOps_cons_of_next e, hinv.filledBy_last hf hr hone w⟩
    · have hdown : ((s.log (.port w)).stored w).count.toNat = s.count.toNat - 1 := by
        show (s.count - 1).toNat = _
        bv_omega
      have e := exec_portWord_stored w hf hr htear ha hcount
      obtain ⟨t, ht, hfilled⟩ := ih (hinv.exec e) hf hr htear (by omega) (fun h => hslot (by omega))
      exact ⟨t, (runOps_cons_of_next e).trans ht, hfilled.cons (hinv.fillAddr_eq hf hr) hdown hpos⟩

/-- Settles O23: the fill from its start, COUNT = L. -/
theorem fillWritesDescendingIndices : Obligations.FillWritesDescendingIndices := by
  intro s ws hinv hf hr hcount hheld hlen hslot
  rw [← hcount] at hlen hslot ⊢
  obtain ⟨t, ht, hfilled⟩ := hinv.fill_runs hf hr (s.tears_eq_false_iff.2 hheld) hlen hslot
  exact ⟨t, ht, hfilled.faulted, hfilled.words, hfilled.published⟩

end Sys2Proof.Machine
end

section
/-! PROOFS. What the producer makes of a whole run: every L port words publish one region, the two in turn (R145, R147).
The registers it counts with follow one function of the number of port words, `ProducerView.next`. -/

namespace Sys2Proof.Machine

/-! ## What the producer counts with -/

/-- What decides when the producer publishes, and which region: its registers, and the addresses it has published. -/
structure ProducerView where
  bufBase : Word
  regionLen : Nat
  active : BitVec 1
  count : BitVec 18
  published : List Word

def State.producerView (s : State) : ProducerView :=
  { bufBase := s.bufBase, regionLen := s.regionLen, active := s.active, count := s.count
    published := publishAddrs s.history }

/-- The address a region is published with (R73, R144). -/
def ProducerView.regionAddr (v : ProducerView) (r : Nat) : Word := BitVec.ofNat 32 (v.bufBase.toNat + r * v.regionLen)

/-- The view once the region ACTIVE is published (R143, R144). -/
def ProducerView.publish (v : ProducerView) : ProducerView :=
  { v with
    active := 1#1 - v.active, count := BitVec.ofNat 18 v.regionLen
    published := v.published ++ [v.regionAddr v.active.toNat] }

/-- The view after a port word that raises no model fault (R143, R144). -/
def ProducerView.next (v : ProducerView) : ProducerView :=
  if v.count = 1 then v.publish else { v with count := v.count - 1 }

theorem ProducerView.next_of_one {v : ProducerView} (h : v.count = 1) : v.next = v.publish := if_pos h

theorem ProducerView.next_of_ne {v : ProducerView} (h : v.count ≠ 1) : v.next = { v with count := v.count - 1 } :=
  if_neg h

theorem publishAddrs_append (es fs : List Event) : publishAddrs (es ++ fs) = publishAddrs es ++ publishAddrs fs :=
  List.filterMap_append

/-- An event that is no PUBLISH adds no address. -/
theorem publishAddrs_concat_of_nil (es : List Event) {e : Event} (h : publishAddrs [e] = []) :
    publishAddrs (es ++ [e]) = publishAddrs es := by
  rw [publishAddrs_append, h, List.append_nil]

/-- Everything the producer handler can leave of the view: where it raises a model fault it has published nothing. -/
theorem State.producerHandler_view {s t : State} {w : Word} (h : (s.log (.port w)).producerHandler w = .next t) :
    (t.faulted ≠ none ∧ publishAddrs t.history = publishAddrs s.history) ∨ t.producerView = s.producerView.next := by
  have hlogged : publishAddrs (s.history ++ [.port w]) = publishAddrs s.history := publishAddrs_concat_of_nil _ rfl
  rcases State.producerHandler_next h with ⟨-, rfl⟩ | ⟨-, -, ⟨hcount, rfl⟩ | ⟨-, -, rfl⟩ | ⟨hcount, -, rfl⟩⟩
  · exact .inl ⟨nofun, hlogged⟩
  · right
    rw [ProducerView.next_of_ne (v := s.producerView) hcount]
    simp [State.producerView, State.stored, hlogged]
  · exact .inl ⟨nofun, hlogged⟩
  · right
    rw [ProducerView.next_of_one (v := s.producerView) hcount, State.log_active, State.published_eq]
    have hpublished : publishAddrs (s.history ++ [.port w, .publish (BitVec.ofNat 32 (s.regionBase s.active))]) =
        publishAddrs s.history ++ [BitVec.ofNat 32 (s.regionBase s.active)] := publishAddrs_append _ _
    rw [State.producerView, hpublished]
    rfl

/-- Everything an operation of a running block can leave of the view: only a port word moves it on. -/
theorem exec_producerView {s t : State} {i : Instr} (h : exec i s = .next t) (hi : i ≠ .reset)
    (hr : s.runState = .running) :
    (t.faulted ≠ none ∧ publishAddrs t.history = publishAddrs s.history) ∨
      t.producerView = ProducerView.next^[if isPortOp i then 1 else 0] s.producerView := by
  cases i with
  | mmioWr off v =>
    obtain ⟨-, rfl | ⟨hidle, -⟩ | ⟨hidle, -⟩⟩ := execMmioWr_next h
    · exact .inr rfl
    · simp [hr] at hidle
    · simp [hr] at hidle
  | mmioRd off => obtain ⟨-, ⟨v, rfl⟩ | rfl⟩ := execMmioRd_next h <;> exact .inr rfl
  | portWord w =>
    obtain ⟨-, ⟨hidle, -⟩ | ⟨-, hp⟩⟩ := execPortWord_next h
    · exact absurd hr hidle
    · exact State.producerHandler_view hp
  | cTake =>
    obtain ⟨-, -, -, -, rfl⟩ := execCTake_next h
    exact .inr (congrArg (fun p => { s.producerView with published := p }) (publishAddrs_concat_of_nil _ rfl))
  | cDeint =>
    obtain ⟨-, -, -, ⟨k, rfl⟩ | ⟨u, hu, rfl⟩⟩ := execCDeint_next h
    · exact .inr rfl
    · rw [State.deinterleave_frame hu]
      exact .inr rfl
  | cStep c j =>
    obtain ⟨-, -, -, -, -, hstep⟩ := execCStep_next h
    rw [State.filterStep_frame hstep]
    exact .inr rfl
  | cEmit =>
    obtain ⟨-, -, -, rfl⟩ := execCEmit_next h
    exact .inr (congrArg (fun p => { s.producerView with published := p }) (publishAddrs_concat_of_nil _ rfl))
  | reset => exact absurd rfl hi

theorem runOps_cons_next {i : Instr} {is : List Instr} {s t : State} (h : runOps (i :: is) s = .next t) :
    ∃ u, exec i s = .next u ∧ runOps is u = .next t := by
  rw [runOps] at h
  cases he : exec i s with
  | next u => exact ⟨u, rfl, by rwa [he] at h⟩
  | fault f => rw [he] at h; cases h
  | refused r => rw [he] at h; cases h

/-- Once a model fault is recorded, a run without a RESET goes no further (R285). -/
theorem runOps_of_faulted {s t : State} {is : List Instr} (hf : s.faulted ≠ none) (hreset : Instr.reset ∉ is)
    (h : runOps is s = .next t) : t = s := by
  obtain ⟨k, hk⟩ := Option.ne_none_iff_exists'.1 hf
  cases is with
  | nil => exact (Host.Outcome.next.inj h).symm
  | cons i is =>
    rw [runOps, exec_of_faulted hk fun hi => hreset (hi ▸ List.mem_cons_self)] at h
    cases h

/-- What a run without a RESET has published, it has published by some number of port words: by all of them, unless a
model fault ended it. -/
theorem runOps_published {s t : State} {is : List Instr} (hreset : Instr.reset ∉ is) (hr : s.runState = .running)
    (h : runOps is s = .next t) :
    ∃ n, publishAddrs t.history = (ProducerView.next^[n] s.producerView).published ∧
      (t.faulted = none → n = is.countP isPortOp) := by
  induction is generalizing s with
  | nil =>
    obtain rfl : s = t := Host.Outcome.next.inj h
    exact ⟨0, rfl, fun _ => rfl⟩
  | cons i is ih =>
    simp only [List.mem_cons, not_or] at hreset
    obtain ⟨hi, hreset⟩ := hreset
    obtain ⟨u, hu, hrest⟩ := runOps_cons_next h
    rcases exec_producerView hu (Ne.symm hi) hr with ⟨hf, hkept⟩ | hview
    · obtain rfl := runOps_of_faulted hf hreset hrest
      exact ⟨0, hkept, fun hnone => absurd hnone hf⟩
    · obtain ⟨hrunning, -⟩ := onlyResetLeavesRunningOrFault s i u hu (Ne.symm hi)
      obtain ⟨hru, -⟩ := hrunning hr
      obtain ⟨n, hn, hcount⟩ := ih hreset hru hrest
      rw [hview, ← Function.iterate_add_apply] at hn
      refine ⟨_, hn, fun hnone => ?_⟩
      rw [hcount hnone, List.countP_cons]

/-! ## The view after n port words -/

/-- The addresses of the first `m` regions published after `v`, when `v` is at region 0: the two in turn (R147). -/
def ProducerView.regionsInTurn (v : ProducerView) (m : Nat) : List Word :=
  (List.range m).map fun k => v.regionAddr (k % 2)

/-- Within a fill only COUNT goes down (R143). -/
theorem ProducerView.next_iterate_of_lt (v : ProducerView) {k : Nat} (h : k < v.count.toNat) :
    next^[k] v = { v with count := v.count - BitVec.ofNat 18 k } := by
  induction k with
  | zero => simp
  | succ k ih =>
    have hcount : v.count - BitVec.ofNat 18 k ≠ 1 := by bv_omega
    rw [Function.iterate_succ_apply', ih (by omega), next_of_ne hcount]
    have : v.count - BitVec.ofNat 18 k - 1 = v.count - BitVec.ofNat 18 (k + 1) := by bv_omega
    rw [← this]

/-- A whole fill publishes its region and goes on to the other one (R144). -/
theorem ProducerView.next_iterate_fill (v : ProducerView) (h : 1 ≤ v.count.toNat) :
    next^[v.count.toNat] v = v.publish := by
  have hlast : v.count - BitVec.ofNat 18 (v.count.toNat - 1) = 1 := by bv_omega
  rw [← Nat.sub_add_cancel h, Function.iterate_succ_apply', v.next_iterate_of_lt (by omega), next_of_one hlast]
  rfl

section FromRegionZero

variable {v : ProducerView} (hactive : v.active = 0#1) (hcount : v.count.toNat = v.regionLen) (hpos : 1 ≤ v.regionLen)
include hactive hcount hpos

/-- After `m` whole fills the first `m` regions are published, in turn (R145, R147). -/
theorem ProducerView.next_iterate_fills (m : Nat) :
    next^[v.regionLen * m] v =
      { v with active := BitVec.ofNat 1 m, published := v.published ++ v.regionsInTurn m } := by
  induction m with
  | zero => simp [← hactive, regionsInTurn]
  | succ m ih =>
    have hfill := ProducerView.next_iterate_fill
      { v with active := BitVec.ofNat 1 m, published := v.published ++ v.regionsInTurn m } (hcount ▸ hpos)
    dsimp only at hfill
    rw [hcount] at hfill
    rw [Nat.mul_succ, Nat.add_comm, Function.iterate_add_apply, ih, hfill, ProducerView.publish]
    have hother : 1#1 - BitVec.ofNat 1 m = BitVec.ofNat 1 (m + 1) := by bv_omega
    have hrestart : BitVec.ofNat 18 v.regionLen = v.count := by rw [← hcount, BitVec.ofNat_toNat, BitVec.setWidth_eq]
    simp only [hother, hrestart, regionsInTurn, List.range_succ, List.map_append, List.append_assoc]
    simp [regionAddr]

/-- After `n` port words the regions published are as many as L goes into `n`. -/
theorem ProducerView.next_iterate_published (n : Nat) :
    (next^[n] v).published = v.published ++ v.regionsInTurn (n / v.regionLen) := by
  have hlt : n % v.regionLen < v.count.toNat := by
    rw [hcount]
    exact Nat.mod_lt n hpos
  conv_lhs => rw [← Nat.div_add_mod n v.regionLen]
  rw [Nat.add_comm, Function.iterate_add_apply, ProducerView.next_iterate_fills hactive hcount hpos,
    ProducerView.next_iterate_of_lt]
  exact hlt

end FromRegionZero

/-! ## From START -/

/-- A successful START leaves the producer at the start of region A (R256, R257). -/
theorem StartsIn.producer {s : State} (h : StartsIn s) :
    s.runState = .running ∧ s.active = 0#1 ∧ s.count.toNat = s.regionLen ∧ 1 ≤ s.regionLen := by
  obtain ⟨r, v, hidle, e, hr⟩ := h
  refine ⟨hr, ?_⟩
  have e : execMmioWr 0x000#12 v r = .next s := e
  obtain ⟨-, rfl | ⟨-, -, -, hsetup⟩ | ⟨-, rfl⟩⟩ := execMmioWr_next e
  · simp [hidle] at hr
  · rcases State.setup_next hsetup with ⟨hchk, rfl⟩ | ⟨-, rfl⟩
    · obtain ⟨hpos, -⟩ := State.regionLen_bounds hchk
      exact ⟨rfl, State.restartCount_toNat hchk, hpos⟩
    · cases hr
  · simp [hidle] at hr

/-- What a run from START has published (R145, R147). -/
theorem StartsIn.published {s t : State} {is : List Instr} (h : StartsIn s) (hrun : RunsTo s is t) :
    ∃ n, publishAddrs t.history = publishAddrs s.history ++ s.producerView.regionsInTurn (n / s.regionLen) ∧
      (t.faulted = none → n = is.countP isPortOp) := by
  obtain ⟨hr, hactive, hcount, hpos⟩ := h.producer
  obtain ⟨hreset, e⟩ := hrun
  obtain ⟨n, hn, hall⟩ := runOps_published hreset hr e
  exact ⟨n, hn.trans (ProducerView.next_iterate_published hactive hcount hpos n), hall⟩

/-- Settles O25: the addresses published since START, counted. -/
theorem onePublishPerRegionOfPortWords : Obligations.OnePublishPerRegionOfPortWords := by
  intro s is t hstart hrun hf
  obtain ⟨n, hpub, hall⟩ := hstart.published hrun
  rw [hpub, List.length_append, hall hf, ProducerView.regionsInTurn, List.length_map, List.length_range]

/-- Settles O26: the addresses published since START, as they stand. -/
theorem publishedAddressesAlternate : Obligations.PublishedAddressesAlternate := by
  intro s is t hstart hrun
  obtain ⟨n, hpub, -⟩ := hstart.published hrun
  exact ⟨_, hpub⟩

end Sys2Proof.Machine
end

section
/-! PROOFS. The deinterleaver's two maps word by word and bit by bit, and that they undo each other (R161 to R165). -/

namespace Sys2Proof.Machine

/-! ## Words of a block -/

theorem wordAt_of_getElem? {b : List Word} {i : Nat} {w : Word} (h : b[i]? = some w) : wordAt b i = w := by
  rw [wordAt, List.getD_eq_getElem?_getD, h, Option.getD_some]

/-- Blocks of one length are equal when they agree word by word. -/
theorem block_ext {b b' : List Word} (hlen : b.length = b'.length) (h : ∀ i < b.length, wordAt b i = wordAt b' i) :
    b = b' := by
  refine List.ext_getElem hlen fun i hi hi' => ?_
  have hword := h i hi
  rwa [wordAt, wordAt, List.getD_eq_getElem _ _ hi, List.getD_eq_getElem _ _ hi'] at hword

/-- Every word of a block of port words is the newer or the older one of a pair. -/
theorem block_ext_pairs {d : Nat} {b b' : List Word} (hb : b.length = 2 * d) (hb' : b'.length = 2 * d)
    (h : ∀ j < d, wordAt b (2 * j) = wordAt b' (2 * j) ∧ wordAt b (2 * j + 1) = wordAt b' (2 * j + 1)) : b = b' := by
  refine block_ext (hb.trans hb'.symm) fun i hi => ?_
  obtain ⟨hnewer, holder⟩ := h (i / 2) (by omega)
  obtain heven | hodd := Nat.mod_two_eq_zero_or_one i
  · rwa [show 2 * (i / 2) = i by omega] at hnewer
  · rwa [show 2 * (i / 2) + 1 = i by omega] at holder

/-- Every word of a deinterleaved block is one of channel 0's or one of channel 1's. -/
theorem block_ext_channels {d : Nat} {b b' : List Word} (hb : b.length = 2 * d) (hb' : b'.length = 2 * d)
    (h : ∀ j < d, wordAt b j = wordAt b' j ∧ wordAt b (d + j) = wordAt b' (d + j)) : b = b' := by
  refine block_ext (hb.trans hb'.symm) fun i hi => ?_
  by_cases hlow : i < d
  · exact (h i hlow).1
  · have hchan1 := (h (i - d) (by omega)).2
    rwa [show d + (i - d) = i by omega] at hchan1

/-! ## deint2 word by word (R163) -/

section Deint2

variable {d j : Nat} (b : List Word) (h : j < d)
include h

theorem deint2_getElem?_chan0 :
    (deint2 d b)[j]? = some (ce (wordAt b (2 * j)) ++ ce (wordAt b (2 * j + 1)) : BitVec (16 + 16)) := by
  simp [deint2, List.getElem?_append_left, h]

theorem deint2_getElem?_chan1 :
    (deint2 d b)[d + j]? = some (co (wordAt b (2 * j)) ++ co (wordAt b (2 * j + 1)) : BitVec (16 + 16)) := by
  simp [deint2, h]

theorem wordAt_deint2_chan0 :
    wordAt (deint2 d b) j = (ce (wordAt b (2 * j)) ++ ce (wordAt b (2 * j + 1)) : BitVec (16 + 16)) :=
  wordAt_of_getElem? (deint2_getElem?_chan0 b h)

theorem wordAt_deint2_chan1 :
    wordAt (deint2 d b) (d + j) = (co (wordAt b (2 * j)) ++ co (wordAt b (2 * j + 1)) : BitVec (16 + 16)) :=
  wordAt_of_getElem? (deint2_getElem?_chan1 b h)

end Deint2

/-- Two half words side by side, as R163 writes them: the upper one shifted up, the lower one below it. -/
theorem halves_eq_shiftLeft_or (x y : BitVec 16) :
    (x ++ y : BitVec (16 + 16)) = (x.setWidth 32 <<< 16) ||| y.setWidth 32 := by
  rw [← BitVec.setWidth_append_eq_shiftLeft_setWidth_or, BitVec.setWidth_eq]

/-- The lower half word is bits 15:0. -/
theorem halves_getLsbD_low (x y : BitVec 16) {m : Nat} (h : m < 16) :
    (x ++ y : BitVec (16 + 16)).getLsbD m = y.getLsbD m := by
  rw [BitVec.getLsbD_append, if_pos h]

/-- The upper half word is bits 31:16. -/
theorem halves_getLsbD_high (x y : BitVec 16) (m : Nat) :
    (x ++ y : BitVec (16 + 16)).getLsbD (16 + m) = x.getLsbD m := by
  rw [BitVec.getLsbD_append, if_neg (by omega), Nat.add_sub_cancel_left]

/-- Settles O27: the two kinds of words of deint2, then each half of each read through `ce` or `co`. -/
theorem deint2WordsAndBits : Obligations.Deint2WordsAndBits := by
  intro d b _
  refine ⟨deint2_length d b, fun j hj => ⟨?_, ?_, fun m hm => ?_⟩⟩
  · rw [deint2_getElem?_chan0 b hj, halves_eq_shiftLeft_or]
  · rw [deint2_getElem?_chan1 b hj, halves_eq_shiftLeft_or]
  rw [wordAt_deint2_chan0 b hj, wordAt_deint2_chan1 b hj]
  refine ⟨?_, ?_, ?_, ?_⟩
  · rw [halves_getLsbD_low _ _ hm, ce_getLsbD _ hm]
  · rw [halves_getLsbD_high, ce_getLsbD _ hm]
  · rw [halves_getLsbD_low _ _ hm, co_getLsbD _ hm]
  · rw [halves_getLsbD_high, co_getLsbD _ hm]

/-! ## spread undoes ce and co (R165) -/

theorem spread_getLsbD_even (e o : BitVec 16) {k : Nat} (h : k < 16) :
    (spread e o).getLsbD (2 * k) = e.getLsbD k := by
  rw [spread, ofNat_packBits_getLsbD _ (by omega), if_pos (by omega), Nat.mul_div_cancel_left k two_pos]

theorem spread_getLsbD_odd (e o : BitVec 16) {k : Nat} (h : k < 16) :
    (spread e o).getLsbD (2 * k + 1) = o.getLsbD k := by
  rw [spread, ofNat_packBits_getLsbD _ (by omega), if_neg (by omega), show (2 * k + 1) / 2 = k by omega]

theorem ce_spread (e o : BitVec 16) : ce (spread e o) = e :=
  BitVec.eq_of_getLsbD_eq fun k hk => by rw [ce_getLsbD _ hk, spread_getLsbD_even _ _ hk]

theorem co_spread (e o : BitVec 16) : co (spread e o) = o :=
  BitVec.eq_of_getLsbD_eq fun k hk => by rw [co_getLsbD _ hk, spread_getLsbD_odd _ _ hk]

theorem spread_ce_co (w : Word) : spread (ce w) (co w) = w := by
  refine BitVec.eq_of_getLsbD_eq fun i hi => ?_
  have hk : i / 2 < 16 := by omega
  obtain heven | hodd := Nat.mod_two_eq_zero_or_one i
  · rw [show i = 2 * (i / 2) by omega, spread_getLsbD_even _ _ hk, ce_getLsbD _ hk]
  · rw [show i = 2 * (i / 2) + 1 by omega, spread_getLsbD_odd _ _ hk, co_getLsbD _ hk]

/-! ## inter2 word by word (R165) -/

/-- `n` pairs one after the other, word by word. -/
theorem flatMap_pairs {α : Type} (f g : Nat → α) (n : Nat) :
    (List.range n).flatMap (fun j => [f j, g j]) =
      (List.range (2 * n)).map (fun i => if i % 2 = 0 then f (i / 2) else g (i / 2)) := by
  induction n with
  | zero => rfl
  | succ n ih =>
    have hdiv : (2 * n + 1) / 2 = n := by omega
    simp [Nat.mul_succ, List.range_succ, ih, hdiv]

theorem inter2_length (d : Nat) (y : List Word) : (inter2 d y).length = 2 * d := by
  simp [inter2, flatMap_pairs]

section Inter2

variable {d j : Nat} (y : List Word) (h : j < d)
include h

theorem inter2_getElem?_newer :
    (inter2 d y)[2 * j]? =
      some (spread ((wordAt y j).extractLsb' 16 16) ((wordAt y (d + j)).extractLsb' 16 16)) := by
  simp [inter2, flatMap_pairs, h]

theorem inter2_getElem?_older :
    (inter2 d y)[2 * j + 1]? =
      some (spread ((wordAt y j).extractLsb' 0 16) ((wordAt y (d + j)).extractLsb' 0 16)) := by
  have hlt : 2 * j + 1 < 2 * d := by omega
  have hdiv : (2 * j + 1) / 2 = j := by omega
  simp [inter2, flatMap_pairs, hlt, hdiv]

theorem wordAt_inter2_newer :
    wordAt (inter2 d y) (2 * j) =
      spread ((wordAt y j).extractLsb' 16 16) ((wordAt y (d + j)).extractLsb' 16 16) :=
  wordAt_of_getElem? (inter2_getElem?_newer y h)

theorem wordAt_inter2_older :
    wordAt (inter2 d y) (2 * j + 1) =
      spread ((wordAt y j).extractLsb' 0 16) ((wordAt y (d + j)).extractLsb' 0 16) :=
  wordAt_of_getElem? (inter2_getElem?_older y h)

end Inter2

/-! ## inter2 and deint2 undo each other (R165) -/

/-- Interleaving what was deinterleaved spreads the even and the odd bits of each port word again. -/
theorem inter2_deint2 {d : Nat} {b : List Word} (hb : b.length = 2 * d) : inter2 d (deint2 d b) = b := by
  refine block_ext_pairs (inter2_length d _) hb fun j hj => ⟨?_, ?_⟩
  · rw [wordAt_inter2_newer _ hj, wordAt_deint2_chan0 b hj, wordAt_deint2_chan1 b hj,
      BitVec.extractLsb'_append_eq_left, BitVec.extractLsb'_append_eq_left, spread_ce_co]
  · rw [wordAt_inter2_older _ hj, wordAt_deint2_chan0 b hj, wordAt_deint2_chan1 b hj,
      BitVec.extractLsb'_append_eq_right, BitVec.extractLsb'_append_eq_right, spread_ce_co]

/-- Deinterleaving what was interleaved puts the halves of each channel word together again. -/
theorem deint2_inter2 {d : Nat} {y : List Word} (hy : y.length = 2 * d) : deint2 d (inter2 d y) = y := by
  refine block_ext_channels (deint2_length d _) hy fun j hj => ⟨?_, ?_⟩
  · rw [wordAt_deint2_chan0 _ hj, wordAt_inter2_newer y hj, wordAt_inter2_older y hj, ce_spread, ce_spread]
    exact BitVec.extractLsb'_append_extractLsb'
  · rw [wordAt_deint2_chan1 _ hj, wordAt_inter2_newer y hj, wordAt_inter2_older y hj, co_spread, co_spread]
    exact BitVec.extractLsb'_append_extractLsb'

/-- Settles O28: the two inverses, the words of inter2 and the bits of spread. -/
theorem deinterleavingIsABijection : Obligations.DeinterleavingIsABijection :=
  ⟨fun _ b hb => ⟨inter2_deint2 hb, deint2_inter2 hb,
      fun _ hj => ⟨inter2_getElem?_newer b hj, inter2_getElem?_older b hj⟩⟩,
    fun e o _ hk => ⟨spread_getLsbD_even e o hk, spread_getLsbD_odd e o hk⟩⟩

end Sys2Proof.Machine
end

section
/-! PROOFS. What C_DEINT does when it is enabled: with one channel, with two, and on an unwritten word (R161, R164). -/

namespace Sys2Proof.Machine

/-- A run of words inside BUFMEM with an unwritten word among them raises UNINIT_READ (R74, R288). -/
theorem State.memReads_of_unwritten {s : State} {a n i : Nat} (hfit : a + n ≤ s.params.bufmemWords) (hi : i < n)
    (hnone : s.bufmem.read (a + i) = none) : s.memReads a n = .error (.raised .uninitRead) := by
  cases hr : s.memReads a n with
  | ok ws =>
    obtain ⟨hlen, hread⟩ := State.memReads_ok.1 hr
    obtain ⟨-, hsome⟩ := hread i (by omega)
    exact nomatch hnone.symm.trans hsome
  | error e =>
    obtain ⟨k, hk, ⟨rfl, -⟩ | ⟨-, hout⟩⟩ := State.memReads_error hr
    · rfl
    · omega

/-! ## The work of C_DEINT -/

theorem State.deinterleave_of_ne_two {s : State} (h : s.numChannels ≠ 2) : s.deinterleave = .ok s := if_neg h

/-- With two channels a held region that was read is replaced by its deinterleaved block (R164). -/
theorem State.deinterleave_of_read {s : State} {b : List Word} (h2 : s.numChannels = 2)
    (hfit : s.cur.toNat + s.regionLen ≤ s.params.bufmemWords) (hb : s.memReads s.cur.toNat s.regionLen = .ok b) :
    s.deinterleave = .ok (s.setBufmem (s.bufmem.writeRun s.cur.toNat (deint2 s.decimation b))) := by
  rw [State.regionLen, h2, ← deint2_length s.decimation b] at hfit
  rw [State.deinterleave, if_pos h2, hb]
  exact State.memWrites_of_le hfit

/-- With two channels a read of the held region that is abandoned abandons C_DEINT's work (R164). -/
theorem State.deinterleave_of_read_error {s : State} {h : Halt} (h2 : s.numChannels = 2)
    (hr : s.memReads s.cur.toNat s.regionLen = .error h) : s.deinterleave = .error h := by
  rw [State.deinterleave, if_pos h2, hr]

/-! ## The step -/

section Enabled

variable {s : State} (hf : s.faulted = none) (hr : s.runState = .running) (hc : s.cstate = .deint)
include hf hr hc

/-- Enabled, C_DEINT goes on to filter what its work leaves. -/
theorem exec_cDeint_of_ok {u : State} (hu : s.deinterleave = .ok u) : exec .cDeint s = .next u.startFiltering := by
  show execCDeint s = _
  rw [execCDeint, State.consumerStep_enabled hf hr (beq_iff_eq.2 hc), hu]

/-- Enabled, C_DEINT with its work abandoned leaves the state with the model fault recorded (R285). -/
theorem exec_cDeint_of_raised {k : ModelFault} (hk : s.deinterleave = .error (.raised k)) :
    exec .cDeint s = .next (s.raise k) := by
  show execCDeint s = _
  rw [execCDeint, State.consumerStep_enabled hf hr (beq_iff_eq.2 hc), hk]
  rfl

end Enabled

/-- Settles O29: the number of channels, then whether the held region was read. -/
theorem deinterleaveStepEffect : Obligations.DeinterleaveStepEffect := by
  intro s hf hr hc L
  refine ⟨fun h1 => ?_, fun h2 hfit => ?_⟩
  · have hne : s.numChannels ≠ 2 := by simp [State.numChannels, h1]
    exact exec_cDeint_of_ok hf hr hc (State.deinterleave_of_ne_two hne)
  have hchannels : s.numChannels = 2 := by simp [State.numChannels, h2]
  refine ⟨fun b hlen hb => ?_, fun i hi hnone => ?_⟩
  · have hread : s.memReads s.cur.toNat s.regionLen = .ok b :=
      State.memReads_ok.2 ⟨hlen, fun i hi => ⟨by omega, hb i hi⟩⟩
    have hblock : (deint2 s.decimation b).length = L := by
      rw [deint2_length, ← hchannels]
      rfl
    refine ⟨_, exec_cDeint_of_ok hf hr hc (State.deinterleave_of_read hchannels hfit hread), rfl, fun i hi => ?_,
      fun a ha => ?_⟩
    · rw [← hblock] at hi
      exact (Memory.read_writeRun_inside _ _ hi).trans (List.getElem?_eq_getElem hi).symm
    · rw [← hblock] at ha
      exact Memory.read_writeRun_outside _ ha
  · have hmiss : s.memReads s.cur.toNat s.regionLen = .error (.raised .uninitRead) :=
      State.memReads_of_unwritten hfit hi hnone
    exact exec_cDeint_of_raised hf hr hc (State.deinterleave_of_read_error hchannels hmiss)

end Sys2Proof.Machine
end

section
/-! PROOFS. Stage 1 (R181 to R188): the window as a FIFO, the filter's exact sum as a sum over the ages, its bound, and
its value on a window of zeros. -/

namespace Sys2Proof.Machine

/-! ## The window (R184) -/

/-- The first `n` words of two lists put together are those of the first list and the first `n` of the second. -/
theorem take_append_take (n : Nat) (front back : List Word) :
    (front ++ back.take n).take n = (front ++ back).take n := by
  rw [List.take_append, List.take_append, List.take_take, Nat.min_eq_left (Nat.sub_le n front.length)]

/-- The words shifted in stand in front of the window, newest first, and the window keeps the newest 8 (R184). -/
theorem foldl_shiftIn (ws : List Word) {window : List Word} (h : window.length = 8) :
    ws.foldl shiftIn window = (ws.reverse ++ window).take 8 := by
  induction ws generalizing window with
  | nil => exact (List.take_of_length_le h.le).symm
  | cons w ws ih =>
    calc (w :: ws).foldl shiftIn window
        = (ws.reverse ++ (w :: window).take 8).take 8 := ih (shiftIn_length h w)
      _ = (ws.reverse ++ w :: window).take 8 := take_append_take 8 _ _
      _ = ((w :: ws).reverse ++ window).take 8 := by rw [List.reverse_cons, List.append_assoc, List.singleton_append]

/-- After 8 or more words the window is the newest 8 of them, whatever it held before (R184, R186). -/
theorem foldl_shiftIn_of_eight_le {ws window : List Word} (h : window.length = 8) (hws : 8 ≤ ws.length) :
    ws.foldl shiftIn window = ws.reverse.take 8 := by
  rw [foldl_shiftIn ws h, List.take_append_of_le_length (by rwa [List.length_reverse])]

/-- Settles O34: what any number of shifts leaves, then what 8 or more leave. -/
theorem windowIsAFifoOfEightWords : Obligations.WindowIsAFifoOfEightWords := by
  intro window ws hlen
  refine ⟨foldl_shiftIn ws hlen, fun w => rfl, fun window' hlen' hws => ?_⟩
  rw [foldl_shiftIn_of_eight_le hlen hws, foldl_shiftIn_of_eight_le hlen' hws]

/-! ## The exact sum (R183) -/

/-- The recursion of `s1Sum` is the sum over the ages from `t` up of coefficient times bit value. -/
theorem s1Sum_eq_sum (m : BitMap) (window coefs : List Word) (t : Nat) :
    s1Sum m window t coefs =
      ∑ i ∈ Finset.range coefs.length, (coefs.getD i 0#32).toInt * m.value (pdmBit window (t + i)) := by
  induction coefs generalizing t with
  | nil => rfl
  | cons c cs ih =>
    have hnext (i : Nat) : t + 1 + i = t + (i + 1) := by omega
    rw [s1Sum, ih, List.length_cons, Finset.sum_range_succ', add_comm]
    simp only [hnext, List.getD_cons_succ, List.getD_cons_zero, Nat.add_zero]

/-- The sum over two runs of coefficients: the second starts at the age after the first. -/
theorem s1Sum_append (m : BitMap) (window cs ds : List Word) (t : Nat) :
    s1Sum m window t (cs ++ ds) = s1Sum m window t cs + s1Sum m window (t + cs.length) ds := by
  induction cs generalizing t with
  | nil => simp [s1Sum]
  | cons c cs ih =>
    rw [List.cons_append, s1Sum, s1Sum, ih, List.length_cons, Nat.add_assoc t 1, Nat.add_comm 1, add_assoc]

/-- With one coefficient for `n` ages the sum is that coefficient times the sum of the bit values. -/
theorem s1Sum_replicate (m : BitMap) (window : List Word) (t n : Nat) (c : Word) :
    s1Sum m window t (List.replicate n c) = c.toInt * ∑ i ∈ Finset.range n, m.value (pdmBit window (t + i)) := by
  rw [s1Sum_eq_sum, List.length_replicate, Finset.mul_sum]
  refine Finset.sum_congr rfl fun i hi => ?_
  rw [List.getD_replicate _ (Finset.mem_range.1 hi)]

/-- An unwritten coefficient raises UNINIT_READ (R74, R183, R204). -/
theorem readCoefs_of_unwritten {m : Memory} {k n i : Nat} (hi : i < n) (hnone : m.read (k + i) = none) :
    readCoefs m k n = .error (.raised .uninitRead) := by
  cases hr : readCoefs m k n with
  | error h => rw [(readCoefs_error hr).1]
  | ok ws =>
    obtain ⟨hlen, hread⟩ := readCoefs_ok.1 hr
    have hsome := hread i (hlen ▸ hi)
    rw [hnone] at hsome
    cases hsome

/-- Settles O31: the sum over the ages from 0 up, and the two outcomes of reading the coefficients. -/
theorem stage1FilterIsTheSaturatedSum : Obligations.Stage1FilterIsTheSaturatedSum := by
  refine ⟨fun m coefs window hlen => ?_, ⟨rfl, rfl, rfl, rfl⟩, ?_, fun m coefs hlen hread => ?_⟩
  · rw [s1Filter, s1Sum_eq_sum, hlen]
    simp only [Nat.zero_add, pdmBit]
  · rintro m ⟨t, ht, hnone⟩
    exact readCoefs_of_unwritten ht (by rwa [Nat.zero_add])
  · exact readCoefs_ok.2 ⟨hlen, fun t ht => by rw [Nat.zero_add]; exact hread t ht⟩

/-! ## The bound below which saturation does not act (R185) -/

/-- `sat32` leaves a value of i32 as it is (R9). -/
theorem sat32_toInt_of_mem {v : Int} (hlow : -(2 ^ 31) ≤ v) (hhigh : v ≤ 2 ^ 31 - 1) : (sat32 v).toInt = v := by
  rw [sat32_toInt, min_eq_right hhigh, max_eq_right hlow]

/-- A PDM bit counts at most 1 in magnitude (R182). -/
theorem abs_value_le_one (m : BitMap) (b : Bool) : |m.value b| ≤ 1 := by
  cases m <;> cases b <;> decide

/-- With every coefficient at most `bound` in magnitude the sum is at most `bound` per coefficient. -/
theorem abs_s1Sum_le (m : BitMap) (window : List Word) (t : Nat) {coefs : List Word} {bound : Int}
    (h : ∀ c ∈ coefs, |c.toInt| ≤ bound) : |s1Sum m window t coefs| ≤ coefs.length * bound := by
  rw [s1Sum_eq_sum]
  calc |∑ i ∈ Finset.range coefs.length, (coefs.getD i 0#32).toInt * m.value (pdmBit window (t + i))|
      ≤ ∑ i ∈ Finset.range coefs.length, |(coefs.getD i 0#32).toInt * m.value (pdmBit window (t + i))| :=
        Finset.abs_sum_le_sum_abs _ _
    _ ≤ ∑ _i ∈ Finset.range coefs.length, bound := by
        refine Finset.sum_le_sum fun i hi => ?_
        have hcoef := h _ (List.getElem_mem (Finset.mem_range.1 hi))
        rw [List.getD_eq_getElem _ _ (Finset.mem_range.1 hi), abs_mul]
        exact (mul_le_of_le_one_right (abs_nonneg _) (abs_value_le_one m _)).trans hcoef
    _ = coefs.length * bound := by rw [Finset.sum_const, Finset.card_range, nsmul_eq_mul]

/-- Settles O32: 256 terms of at most 2^23 - 1 each stay inside i32. -/
theorem stage1DoesNotSaturateBelowTheBound : Obligations.Stage1DoesNotSaturateBelowTheBound := by
  intro m coefs window hlen hcoefs
  have hsum : |s1Sum m window 0 coefs| ≤ coefs.length * (2 ^ 23 - 1) := by
    refine abs_s1Sum_le m window 0 fun c hc => abs_le.2 ?_
    have := hcoefs c hc
    omega
  rw [hlen, abs_le] at hsum
  exact sat32_toInt_of_mem (by omega) (by omega)

/-! ## The popcount filter (R185) -/

/-- `countOnes` is the sum of the low `n` bits of a word. -/
theorem countOnes_eq_sum (w : Word) (n : Nat) : countOnes w n = ∑ i ∈ Finset.range n, (w.getLsbD i).toNat := by
  induction n with
  | zero => rfl
  | succ n ih => rw [countOnes, ih, Finset.sum_range_succ]

/-- Under UNIPOLAR a bit counts as 0 or 1 (R182). -/
theorem unipolar_value (b : Bool) : BitMap.unipolar.value b = (b.toNat : Int) := by cases b <;> rfl

/-- The 32 newest ages are the bits of the newest word, from bit 31 down (R181). -/
theorem pdmBit_cons_of_lt (w : Word) (rest : List Word) {t : Nat} (h : t < 32) :
    pdmBit (w :: rest) t = w.getLsbD (31 - t) := by
  rw [pdmBit, Nat.div_eq_of_lt h, Nat.mod_eq_of_lt h, List.getD_cons_zero]

/-- Under UNIPOLAR the bit values of the 32 newest ages add up to the popcount of the newest word (R181, R182). -/
theorem sum_newest_values (w : Word) (rest : List Word) :
    ∑ t ∈ Finset.range 32, BitMap.unipolar.value (pdmBit (w :: rest) t) = (popcount w : Int) := by
  have hreflect := Finset.sum_range_reflect (fun k => (w.getLsbD k).toNat) 32
  rw [popcount, countOnes_eq_sum, ← hreflect, Nat.cast_sum]
  refine Finset.sum_congr rfl fun t ht => ?_
  rw [unipolar_value, pdmBit_cons_of_lt w rest (Finset.mem_range.1 ht)]

/-- A word has at most 32 bits that are 1. -/
theorem popcount_le (w : Word) : popcount w ≤ 32 := by
  have h := List.length_filter_le (fun k => w.getLsbD k) (List.range 32)
  rwa [← countOnes_eq_length_filter, List.length_range] at h

/-- The sum of R185's popcount filter. -/
theorem s1Sum_popcount_filter (w : Word) (rest : List Word) :
    s1Sum .unipolar (w :: rest) 0 (List.replicate 32 1#32 ++ List.replicate 224 0#32) = popcount w := by
  rw [s1Sum_append, s1Sum_replicate, s1Sum_replicate, BitVec.toInt_zero, zero_mul, add_zero]
  simp only [Nat.zero_add, sum_newest_values]
  exact one_mul _

/-- Settles O33: the sum is the popcount, which i32 holds. -/
theorem popcountFilterCountsTheNewestWord : Obligations.PopcountFilterCountsTheNewestWord := by
  intro w rest
  have hcount := popcount_le w
  have hvalue : (sat32 (popcount w)).toInt = popcount w := sat32_toInt_of_mem (by omega) (by omega)
  rw [s1Filter, s1Sum_popcount_filter]
  rw [BitVec.toInt_eq_toNat_cond] at hvalue
  split_ifs at hvalue <;> omega

/-! ## All-zero input (R188) -/

/-- Every bit of a window of zeros is 0 (R181). -/
theorem pdmBit_replicate_zero (n t : Nat) : pdmBit (List.replicate n 0#32) t = false := by
  rw [pdmBit, List.getD_eq_getElem?_getD, List.getElem?_getD_replicate_default_eq, BitVec.getLsbD_zero]

/-- On a window of zeros the sum is that of the coefficients, times the value of a 0 bit. -/
theorem s1Sum_of_zeros (m : BitMap) (n : Nat) (coefs : List Word) :
    s1Sum m (List.replicate n 0#32) 0 coefs =
      (∑ t ∈ Finset.range coefs.length, (coefs.getD t 0#32).toInt) * m.value false := by
  simp only [s1Sum_eq_sum, pdmBit_replicate_zero, Finset.sum_mul]

/-- Eight or more zero words leave a window of zeros (R188). -/
theorem foldl_shiftIn_zeros {window : List Word} {n : Nat} (h : window.length = 8) (hn : 8 ≤ n) :
    (List.replicate n 0#32).foldl shiftIn window = List.replicate 8 0#32 := by
  rw [foldl_shiftIn_of_eight_le h (by rwa [List.length_replicate]), List.reverse_replicate, List.take_replicate,
    Nat.min_eq_left hn]

/-- Settles O35: the window is all zeros, so each coefficient counts with the value of a 0 bit. -/
theorem allZeroInputGivesTheIdleOutput : Obligations.AllZeroInputGivesTheIdleOutput := by
  intro coefs window n hlen hwin hn
  rw [foldl_shiftIn_zeros hwin hn, s1Filter, s1Filter, s1Sum_of_zeros, s1Sum_of_zeros, hlen]
  refine ⟨?_, ?_⟩
  · rw [show BitMap.unipolar.value false = 0 from rfl, mul_zero]
    rfl
  · rw [show BitMap.bipolar.value false = -1 from rfl, mul_neg_one]

end Sys2Proof.Machine
end

section
/-! PROOFS. Stage 2 (R203 to R207): the corners of its arithmetic, its exact sum over the taps, what a push leaves and
when it asks for an output, and the delay positions no tap reads. -/

namespace Sys2Proof.Machine

/-! ## The shift and the saturation (R206) -/

/-- Above the range `sat32` is its upper end (R9). -/
theorem sat32_of_gt {v : Int} (h : v > 2 ^ 31 - 1) : sat32 v = 0x7FFFFFFF#32 := by
  rw [sat32, if_pos h]
  rfl

/-- Below the range `sat32` is its lower end (R9). -/
theorem sat32_of_lt {v : Int} (h : v < -(2 ^ 31)) : sat32 v = 0x80000000#32 := by
  rw [sat32, if_neg (by omega), if_pos h]
  rfl

/-- `asr v n` is the only number whose multiple of `2^n` is the last one up to `v` (R9). -/
theorem asr_eq_of_floor {v q : Int} {n : Nat} (hle : q * 2 ^ n ≤ v) (hlt : v < (q + 1) * 2 ^ n) : asr v n = q :=
  (Int.ediv_eq_iff_of_pos (by positivity)).2 ⟨hle, by rwa [← add_one_mul]⟩

/-- Settles O37: each end of i32, and the shifts by their floors. -/
theorem stage2NumericCorners : Obligations.Stage2NumericCorners := by
  refine ⟨asr_eq_of_floor (by decide) (by decide), ⟨by decide, by decide⟩, fun _ _ => sat32_of_gt,
    fun _ _ => sat32_of_lt, fun v => asr_eq_of_floor (by omega) (by omega), fun v hlow hhigh => ?_⟩
  split_ifs with hneg
  · exact asr_eq_of_floor (by omega) (by omega)
  · exact asr_eq_of_floor (by omega) (by omega)

/-! ## The exact sum (R204) -/

/-- The recursion of `s2Sum` is the sum over the taps of coefficient times delay-line word. -/
theorem s2Sum_eq_sum (coefs dl : List Word) :
    s2Sum coefs dl = ∑ k ∈ Finset.range coefs.length, (coefs.getD k 0#32).toInt * (dl.getD k 0#32).toInt := by
  induction coefs generalizing dl with
  | nil => rfl
  | cons c cs ih =>
    rw [s2Sum, ih, List.length_cons, Finset.sum_range_succ', add_comm]
    cases dl <;> rfl

theorem State.s2Output_of_error {s : State} {c : BitVec 1} {h : Halt}
    (hread : readCoefs s.s2Coef 0 s.ntaps.toNat = .error h) : s.s2Output c = .error h := by
  rw [State.s2Output, hread]

/-- Settles O36: the sum over the coefficients read, and the one that cannot be read. -/
theorem stage2OutputIsTheShiftedSaturatedSum : Obligations.Stage2OutputIsTheShiftedSaturatedSum := by
  intro s c
  refine ⟨fun coef hread => ?_, fun ⟨k, hk, hnone⟩ => ?_⟩
  · have hcoefs : readCoefs s.s2Coef 0 s.ntaps.toNat = .ok ((List.range s.ntaps.toNat).map coef) := by
      refine readCoefs_ok.2 ⟨by simp, fun k hk => ?_⟩
      simpa using hread k (by simpa using hk)
    rw [State.s2Output_of hcoefs, s2Filter, s2Sum_eq_sum, List.length_map, List.length_range]
    congr 3
    refine Finset.sum_congr rfl fun k hk => ?_
    rw [List.getD_eq_getElem _ _ (by simpa using hk), List.getElem_map, List.getElem_range]
  · exact State.s2Output_of_error (readCoefs_of_unwritten hk (by rwa [Nat.zero_add]))

/-! ## One push (R203) -/

/-- The phase counts the inputs modulo D (R203). -/
theorem State.pushed_ph_toNat {s : State} {c : BitVec 1} (h : (s.chan c).ph.toNat < s.decimation) (y : Word) :
    (s.pushed c y).ph.toNat = ((s.chan c).ph.toNat + 1) % s.decimation := by
  have hdecim : s.decimation < 2 ^ 16 := s.decim.isLt
  by_cases hend : s.cycleEnds c = true
  · rw [State.pushed, if_pos hend, (s.cycleEnds_iff c).1 hend, Nat.mod_self]
    rfl
  · have hne := mt (s.cycleEnds_iff c).2 hend
    rw [State.pushed, if_neg hend, Nat.mod_eq_of_lt (by omega)]
    exact BitVec.toNat_add_of_lt (show _ + 1 < 2 ^ 16 by omega)

theorem State.s2Push_snd_of_cycleEnds {s : State} {c : BitVec 1} (h : s.cycleEnds c = true) (y : Word) :
    (s.s2Push c y).2 = (s.s2Push c y).1.s2Result c := if_pos h

theorem State.s2Push_snd_of_not_cycleEnds {s : State} {c : BitVec 1} (h : ¬ s.cycleEnds c = true) (y : Word) :
    (s.s2Push c y).2 = .ok none := if_neg h

theorem State.s2Result_of_ok {s : State} {c : BitVec 1} {v : Word} (h : s.s2Output c = .ok v) :
    s.s2Result c = .ok (some v) := by
  rw [State.s2Result, h]

theorem State.s2Result_of_error {s : State} {c : BitVec 1} {e : Halt} (h : s.s2Output c = .error e) :
    s.s2Result c = .error e := by
  rw [State.s2Result, h]

/-- Settles O38: the channel pushed, the frame of `setChan`, and the two cases of the phase. -/
theorem stage2PushEffect : Obligations.Stage2PushEffect := by
  intro s c y hlen hmax hph t
  have hchan : t.chan c = s.pushed c y := State.chan_setChan_self s c _
  obtain ⟨m, hm⟩ : ∃ m, s.params.s2TapsMax = m + 1 := ⟨_, (Nat.sub_add_cancel hmax).symm⟩
  have hdl : (t.chan c).dl = y :: (s.chan c).dl.take m := by
    rw [hchan, State.pushed, hm, List.take_succ_cons]
  have hphase : (t.chan c).ph.toNat = ((s.chan c).ph.toNat + 1) % s.decim.toNat :=
    hchan ▸ State.pushed_ph_toNat hph y
  refine ⟨by rw [hdl]; rfl, fun k hk => ?_, ?_, by rw [hchan]; rfl,
    fun c' hne => State.chan_setChan_of_ne s _ hne, rfl, fun hend => ?_, fun hne => ?_⟩
  · rw [hdl, List.getElem?_cons_succ, List.getElem?_take_of_lt (by omega)]
  · rw [hdl, List.length_cons, List.length_take, hlen]
    omega
  · rw [State.s2Push_snd_of_cycleEnds ((s.cycleEnds_iff c).2 hend) y]
    refine ⟨BitVec.eq_of_toNat_eq ?_, fun v hv => State.s2Result_of_ok hv, fun e he => State.s2Result_of_error he⟩
    rw [hphase, hend, Nat.mod_self]
    rfl
  · refine ⟨?_, State.s2Push_snd_of_not_cycleEnds (mt (s.cycleEnds_iff c).1 hne) y⟩
    rw [hphase, Nat.mod_eq_of_lt (by omega)]

/-! ## The cadence of the outputs (R205) -/

/-- A push asks for an output exactly on the last input of a cycle: the output is a value or a fault. -/
theorem State.s2Push_snd_ne_none_iff (s : State) (c : BitVec 1) (y : Word) :
    (s.s2Push c y).2 ≠ .ok none ↔ s.cycleEnds c = true := by
  by_cases hend : s.cycleEnds c = true
  · refine iff_of_true ?_ hend
    rw [State.s2Push_snd_of_cycleEnds hend]
    cases hout : (s.s2Push c y).1.s2Output c with
    | ok v => rw [State.s2Result_of_ok hout]; nofun
    | error e => rw [State.s2Result_of_error hout]; nofun
  · exact iff_of_false (not_not.2 (State.s2Push_snd_of_not_cycleEnds hend y)) hend

/-- The state after the inputs `ys` of channel `c`, oldest first. -/
def State.s2Pushes (s : State) (c : BitVec 1) (ys : List Word) : State :=
  ys.foldl (fun u x => (u.s2Push c x).1) s

theorem State.s2Pushes_cons (s : State) (c : BitVec 1) (y : Word) (ys : List Word) :
    s.s2Pushes c (y :: ys) = (s.setChan c (s.pushed c y)).s2Pushes c ys := rfl

@[simp] theorem State.s2Pushes_decimation (s : State) (c : BitVec 1) (ys : List Word) :
    (s.s2Pushes c ys).decimation = s.decimation := by
  induction ys generalizing s with
  | nil => rfl
  | cons y ys ih => rw [State.s2Pushes_cons, ih, State.setChan_decimation]

/-- After any inputs the phase is the one before plus their number, modulo D (R203). -/
theorem State.s2Pushes_ph_toNat {s : State} {c : BitVec 1} (h : (s.chan c).ph.toNat < s.decimation) (ys : List Word) :
    ((s.s2Pushes c ys).chan c).ph.toNat = ((s.chan c).ph.toNat + ys.length) % s.decimation := by
  induction ys generalizing s with
  | nil => exact (Nat.mod_eq_of_lt h).symm
  | cons y ys ih =>
    have hpos : 0 < s.decimation := by omega
    have hphase : ((s.setChan c (s.pushed c y)).chan c).ph.toNat = ((s.chan c).ph.toNat + 1) % s.decimation := by
      rw [State.chan_setChan_self, State.pushed_ph_toNat h]
    rw [State.s2Pushes_cons, ih (by rw [hphase]; exact Nat.mod_lt _ hpos), hphase, State.setChan_decimation,
      Nat.mod_add_mod, List.length_cons, Nat.add_assoc, Nat.add_comm 1]

/-- A cycle's last input comes next exactly when D divides the number of the next input. -/
theorem mod_succ_eq_iff_dvd {n d : Nat} (hd : 1 ≤ d) : n % d + 1 = d ↔ d ∣ n + 1 := by
  have hnext : d ∣ n + 1 ↔ d ∣ n % d + 1 := by
    rw [Nat.dvd_iff_mod_eq_zero, Nat.dvd_iff_mod_eq_zero, Nat.mod_add_mod]
  rw [hnext]
  exact ⟨fun h => dvd_of_eq h.symm, fun h => le_antisymm (Nat.mod_lt n hd) (Nat.le_of_dvd (Nat.succ_pos _) h)⟩

/-- Settles O39: the phase before the push is the number of inputs modulo D. -/
theorem stage2OutputCadence : Obligations.Stage2OutputCadence := by
  intro s c ys y hd hph
  have hzero : (s.chan c).ph.toNat = 0 := by rw [hph]; rfl
  have hphase := State.s2Pushes_ph_toNat (hzero ▸ hd : (s.chan c).ph.toNat < s.decimation) ys
  rw [hzero, Nat.zero_add] at hphase
  change ((s.s2Pushes c ys).s2Push c y).2 ≠ .ok none ↔ _
  rw [State.s2Push_snd_ne_none_iff, State.cycleEnds_iff, hphase, State.s2Pushes_decimation]
  exact mod_succ_eq_iff_dvd hd

/-! ## Delay positions beyond the taps (R207) -/

/-- The sum reads as many delay positions as there are coefficients (R204). -/
theorem s2Sum_take (coefs dl : List Word) : s2Sum coefs (dl.take coefs.length) = s2Sum coefs dl := by
  rw [s2Sum_eq_sum, s2Sum_eq_sum]
  refine Finset.sum_congr rfl fun k hk => ?_
  simp only [List.getD_eq_getElem?_getD, List.getElem?_take_of_lt (Finset.mem_range.1 hk)]

/-- The first `n` positions of a delay line take the inputs as a delay line of `n` positions does (R203). -/
theorem take_foldl_push {n depth : Nat} (h : n ≤ depth) (dl ys : List Word) :
    (ys.foldl (fun x y => (y :: x).take depth) dl).take n = ys.foldl (fun x y => (y :: x).take n) (dl.take n) := by
  refine (List.foldl_hom (List.take n) fun x y => ?_).symm
  rw [List.take_take, Nat.min_eq_left h]
  exact take_append_take n [y] x

/-- Settles O40: the sum reads the first NT positions, and those are the shorter delay line. -/
theorem delayPositionsBeyondTheTapsDoNotMatter : Obligations.DelayPositionsBeyondTheTapsDoNotMatter := by
  intro shift depth coefs dl ys hlen
  rw [s2Filter, s2Filter, ← take_foldl_push hlen, s2Sum_take]

end Sys2Proof.Machine
end

section
/-! PROOFS. The controller's steps one by one: when each runs (R221), and what it leaves (R222, R226, R229). -/

namespace Sys2Proof.Machine

/-! ## When a consumer step runs (R221, R290) -/

theorem Halt.outcome_ne_notEnabled (e : Halt) (s : State) : e.outcome s ≠ .fault .notEnabled := by
  cases e <;> nofun

/-- C_STEP's work is never what leaves a run stuck (R226). -/
theorem State.filterStep_ne_notEnabled (s : State) (c : BitVec 1) (j : BitVec 16) :
    s.filterStep c j ≠ .fault .notEnabled := by
  unfold State.filterStep
  split
  · exact Halt.outcome_ne_notEnabled _ _
  split
  · exact Halt.outcome_ne_notEnabled _ _
  split
  · exact Halt.outcome_ne_notEnabled _ _
  · nofun

/-- With no model fault, a consumer step whose work does not get stuck is stuck exactly when it is not enabled. -/
theorem State.consumerStep_notEnabled_iff {s : State} {b : Bool} {r : Result} (hf : s.faulted = none)
    (hr : r ≠ .fault .notEnabled) :
    s.consumerStep b r = .fault .notEnabled ↔ ¬(s.runState = .running ∧ b = true) := by
  rw [State.consumerStep, State.unlessFaulted_none hf]
  split_ifs with henabled
  · exact iff_of_false hr (not_not.2 henabled)
  · exact iff_of_true rfl henabled

/-- Settles O41: each step's condition, read from its guard. -/
theorem consumerStepsRunExactlyWhenEnabled : Obligations.ConsumerStepsRunExactlyWhenEnabled := by
  intro s
  refine ⟨fun hf => ⟨?_, ?_, fun c j => ?_, ?_⟩,
    fun k hk => ⟨fun i hi => exec_of_faulted hk ?_, fun c j => exec_of_faulted hk nofun⟩⟩
  · exact (State.consumerStep_notEnabled_iff hf (r := .next s.takeBuffer) nofun).trans (by simp)
  · refine (State.consumerStep_notEnabled_iff hf fun hstuck => ?_).trans (by simp)
    cases hd : s.deinterleave with
    | error e => exact e.outcome_ne_notEnabled s (by rwa [hd] at hstuck)
    | ok u => rw [hd] at hstuck; cases hstuck
  · exact (State.consumerStep_notEnabled_iff hf (s.filterStep_ne_notEnabled c j)).trans (by simp [and_assoc])
  · exact (State.consumerStep_notEnabled_iff hf (r := .next s.emitFrame) nofun).trans (by simp)
  · rintro rfl
    simp at hi

/-! ## C_TAKE and C_EMIT (R222, R229) -/

section Enabled

variable {s : State} (hf : s.faulted = none) (hr : s.runState = .running)
include hf hr

theorem exec_cTake_of_enabled (hc : s.cstate = .await) (hs : s.slotFull = true) :
    exec .cTake s = .next s.takeBuffer :=
  State.consumerStep_enabled hf hr (by rw [hc, hs]; rfl) _

theorem exec_cEmit_of_enabled (hc : s.cstate = .emit) : exec .cEmit s = .next s.emitFrame :=
  State.consumerStep_enabled hf hr (beq_iff_eq.2 hc) _

theorem exec_cStep_of_enabled (hc : s.cstate = .filt) : exec (.cStep s.ch s.wix) s = s.filterStep s.ch s.wix :=
  State.consumerStep_enabled hf hr (by simp [hc]) _

end Enabled

/-- Settles O42: `takeBuffer`, written out. -/
theorem takeStepEffect : Obligations.TakeStepEffect := fun _ => exec_cTake_of_enabled

/-- Settles O45: the frame takes as many values as there are channels. -/
theorem emitStepEffect : Obligations.EmitStepEffect := fun s hf hr hc =>
  ⟨s.frameSamples, exec_cEmit_of_enabled hf hr hc, fun h1 => by rw [State.frameSamples, State.numChannels, h1]; rfl,
    fun h2 => by rw [State.frameSamples, State.numChannels, h2]; rfl⟩

/-! ## The controller's move (R223, R226) -/

@[simp] theorem State.advance_chan (s : State) (c : BitVec 1) (j : BitVec 16) (c' : BitVec 1) :
    (s.advance c j).chan c' = s.chan c' := by
  rw [State.advance_eq]
  rfl

/-! ## C_STEP (R226) -/

/-- A run of words that was read, address by address. -/
theorem State.memReads_getElem? {s : State} {a n : Nat} {ws : List Word} (h : s.memReads a n = .ok ws) {k : Nat}
    (hk : k < n) : s.bufmem.read (a + k) = ws[k]? := by
  obtain ⟨rfl, hread⟩ := State.memReads_ok.1 h
  rw [(hread k hk).2, List.getElem?_eq_getElem]

/-- The coefficients that were read, index by index. -/
theorem readCoefs_getElem? {m : Memory} {n : Nat} {ws : List Word} (h : readCoefs m 0 n = .ok ws) {k : Nat}
    (hk : k < n) : m.read k = ws[k]? := by
  obtain ⟨rfl, hread⟩ := readCoefs_ok.1 h
  rw [List.getElem?_eq_getElem hk, ← hread k hk, Nat.zero_add]

/-- The block filters: it runs in FILT with no model fault, the invariant holds, and `k1` and `k2` are the coefficients of
the two stages (R183, R204). -/
structure State.Filtering (s : State) (k1 k2 : List Word) : Prop where
  inv : s.Inv
  faulted : s.faulted = none
  running : s.runState = .running
  filt : s.cstate = .filt
  coefs1 : readCoefs s.s1Coef 0 256 = .ok k1
  coefs2 : readCoefs s.s2Coef 0 s.ntaps.toNat = .ok k2

/-- The channel that filters, once it took the channel word `w` behind `window`: both stages on one word (R203, R226). -/
def State.fedChannel (s : State) (k1 k2 : List Word) (w : Word) (window : List Word) : Channel :=
  let dl := (s1Filter s.params.bitMap k1 (shiftIn window w) :: (s.chan s.ch).dl).take s.params.s2TapsMax
  { dl := dl
    ph := if s.wix = 0#16 then 0#16 else (s.chan s.ch).ph + 1
    frm := if s.wix = 0#16 then s2Filter s.s2Shift.toNat k2 dl else (s.chan s.ch).frm }

/-- What C_STEP leaves once it took the channel word `w` behind `window` (R226). -/
def State.fedWord (s : State) (k1 k2 : List Word) (w : Word) (window : List Word) : State :=
  ((s.setBufmem (s.bufmem.writeRun (s.histBase s.ch.toNat) (shiftIn window w))).setChan s.ch
    (s.fedChannel k1 k2 w window)).advance s.ch s.wix

/-- Stage 2 gives its output on the channel's last word, and FRM takes it then (R203, R226). -/
theorem State.Filtering.exec_cStep {s : State} {k1 k2 : List Word} (h : s.Filtering k1 k2) {w : Word}
    {window : List Word} (hw : s.memRead (s.cur.toNat + s.ch.toNat * s.decimation + s.wix.toNat) = .ok w)
    (hwin : s.memReads (s.histBase s.ch.toNat) 8 = .ok window) :
    exec (.cStep s.ch s.wix) s = .next (s.fedWord k1 k2 w window) := by
  obtain ⟨-, hcycle⟩ := h.inv.filter_phase h.running h.faulted h.filt
  have hstored : (s.setBufmem (s.bufmem.writeRun (s.histBase s.ch.toNat) (shiftIn window w))).cycleEnds s.ch =
      s.cycleEnds s.ch := rfl
  rw [exec_cStep_of_enabled h.faulted h.running h.filt, State.filterStep_of hw hwin h.coefs1, State.fedWord]
  by_cases hlast : s.wix = 0#16
  · rw [if_pos (hcycle.2 hlast), State.s2Output_of (s := s.filtered s.ch w window k1) h.coefs2]
    simp only [State.storeOutput_some, State.filtered, State.setChan_setChan, State.chan_setChan_self, State.pushed,
      State.fedChannel, hstored, hcycle.2 hlast, if_pos hlast]
    rfl
  · rw [if_neg (mt hcycle.1 hlast)]
    simp only [State.filtered, State.pushed, State.fedChannel, hstored, mt hcycle.1 hlast, if_neg hlast]
    rfl

/-! ### What C_STEP leaves, field by field -/

/-- What C_STEPs leave unchanged: everything but the windows, the channels and the controller's place (R226, R297). -/
def State.FilterFrame (s t : State) : Prop :=
  t = { s with
    bufmem := t.bufmem, chan0 := t.chan0, chan1 := t.chan1, cstate := t.cstate, ch := t.ch, wix := t.wix }

section FedWord

variable {s : State} {k1 k2 : List Word} {w : Word} {window : List Word}

theorem State.fedWord_frame : s.FilterFrame (s.fedWord k1 k2 w window) := by
  rw [State.FilterFrame, State.fedWord, State.advance_eq]
  rfl

theorem State.fedWord_chan_self : (s.fedWord k1 k2 w window).chan s.ch = s.fedChannel k1 k2 w window := by
  rw [State.fedWord, State.advance_chan, State.chan_setChan_self]

theorem State.fedWord_chan_of_ne {c : BitVec 1} (hc : c ≠ s.ch) :
    (s.fedWord k1 k2 w window).chan c = s.chan c := by
  rw [State.fedWord, State.advance_chan, State.chan_setChan_of_ne _ _ hc]
  rfl

theorem State.fedWord_bufmem :
    (s.fedWord k1 k2 w window).bufmem = s.bufmem.writeRun (s.histBase s.ch.toNat) (shiftIn window w) :=
  State.advance_bufmem _ _ _

theorem State.fedWord_read_outside (hlen : window.length = 8) {a : Nat}
    (ha : a < s.histBase s.ch.toNat ∨ s.histBase s.ch.toNat + 8 ≤ a) :
    (s.fedWord k1 k2 w window).bufmem.read a = s.bufmem.read a := by
  rw [State.fedWord_bufmem]
  exact Memory.read_writeRun_outside _ (by rwa [shiftIn_length hlen])

theorem State.fedWord_read_window (hlen : window.length = 8) {k : Nat} (hk : k < 8) :
    (s.fedWord k1 k2 w window).bufmem.read (s.histBase s.ch.toNat + k) = (shiftIn window w)[k]? := by
  have hk' : k < (shiftIn window w).length := by rwa [shiftIn_length hlen]
  rw [State.fedWord_bufmem, Memory.read_writeRun_inside _ _ hk', List.getElem?_eq_getElem]

/-- Before a channel's newest word, WIX goes to the next newer word (R223). -/
theorem State.fedWord_of_word (hj : s.wix ≠ 0#16) :
    (s.fedWord k1 k2 w window).cstate = s.cstate ∧ (s.fedWord k1 k2 w window).ch = s.ch ∧
      (s.fedWord k1 k2 w window).wix = s.wix - 1 := by
  rw [State.fedWord, State.advance_word _ _ hj]
  exact ⟨rfl, rfl, rfl⟩

/-- After a channel's newest word the next channel starts at its oldest word (R223). -/
theorem State.fedWord_of_channel (hj : s.wix = 0#16) (hc : s.ch.toNat + 1 < s.numChannels) :
    (s.fedWord k1 k2 w window).cstate = s.cstate ∧ (s.fedWord k1 k2 w window).ch = s.ch + 1 ∧
      (s.fedWord k1 k2 w window).wix = s.decim - 1 := by
  rw [State.fedWord, hj, State.advance_channel]
  · exact ⟨rfl, rfl, rfl⟩
  · exact hc

/-- After the last channel's newest word the frame is due (R226). -/
theorem State.fedWord_of_emit (hj : s.wix = 0#16) (hc : ¬s.ch.toNat + 1 < s.numChannels) :
    (s.fedWord k1 k2 w window).cstate = .emit ∧ (s.fedWord k1 k2 w window).ch = s.ch ∧
      (s.fedWord k1 k2 w window).wix = s.wix := by
  rw [State.fedWord, hj, State.advance_emit]
  · exact ⟨rfl, rfl, hj⟩
  · exact hc

end FedWord

/-- Settles O43: the words read from the invariant and the written marks, and what `fedWord` holds field by field. -/
theorem filterStepEffect : Obligations.FilterStepEffect := by
  rintro s c j hinv hf hr hc rfl rfl ⟨hm1, hm2⟩
  obtain ⟨⟨w, hw⟩, window, hwin⟩ := hinv.filter_reads hr hf hc
  obtain ⟨k1, hk1⟩ : ∃ k1, readCoefs s.s1Coef 0 256 = .ok k1 :=
    readCoefs_of_marked fun i hi => by simpa using hm1 i hi
  obtain ⟨k2, hk2⟩ : ∃ k2, readCoefs s.s2Coef 0 s.ntaps.toNat = .ok k2 :=
    readCoefs_of_marked fun k hk => by simpa using hm2 k hk
  obtain ⟨hlen, -⟩ := State.memReads_ok.1 hwin
  have hfilter : s.Filtering k1 k2 := ⟨hinv, hf, hr, hc, hk1, hk2⟩
  have hself := State.fedWord_chan_self (s := s) (k1 := k1) (k2 := k2) (w := w) (window := window)
  refine ⟨w, window, k1, k2, s.fedWord k1 k2 w window, (State.memRead_ok.1 hw).2,
    ⟨hlen, fun k hk => State.memReads_getElem? hwin hk⟩,
    ⟨(readCoefs_ok.1 hk1).1, fun k hk => readCoefs_getElem? hk1 hk⟩,
    ⟨(readCoefs_ok.1 hk2).1, fun k hk => readCoefs_getElem? hk2 hk⟩, hfilter.exec_cStep hw hwin, fun k hk => ?_,
    fun a ha => State.fedWord_read_outside hlen ha, by rw [hself]; rfl, fun hj => ?_, fun hj => ?_,
    fun c' hne => State.fedWord_chan_of_ne hne, fun hj => ?_, fun hj hnext => ?_, fun hj hlast => ?_,
    State.fedWord_frame⟩
  · rw [State.fedWord_read_window hlen hk]
    exact List.getElem?_take_of_lt hk
  · rw [hself]
    exact ⟨if_pos hj, if_pos hj⟩
  · rw [hself]
    exact ⟨if_neg hj, if_neg hj⟩
  · exact hc ▸ State.fedWord_of_word hj
  · exact hc ▸ State.fedWord_of_channel hj hnext
  · exact State.fedWord_of_emit hj hlast

end Sys2Proof.Machine
end

section
/-! PROOFS. Since START every published buffer is taken in its turn and given one frame (R233): what each operation does to
the account of published, taken and delivered buffers, and that account along a run. -/

namespace Sys2Proof.Machine

/-! ## The events of an extended history -/

theorem takeAddrs_append (es fs : List Event) : takeAddrs (es ++ fs) = takeAddrs es ++ takeAddrs fs :=
  List.filterMap_append

theorem frames_append (es fs : List Event) : frames (es ++ fs) = frames es ++ frames fs :=
  List.filterMap_append

/-! ## The account -/

/-- The buffer that is published and not yet taken (R44). -/
def State.pendingSlot (s : State) : List Word := if s.slotFull then [s.slotAddr] else []

/-- The buffers that are taken and not yet delivered: the held one (R45, R220). -/
def State.heldCount (s : State) : Nat := if s.cstate = .await then 0 else 1

/-- From `s0` to `t` the buffers taken are those published but for the one in the slot, in order, and each of them but the
held one was given a frame. -/
def State.Accounted (s0 t : State) : Prop :=
  ∃ taken, takeAddrs t.history = takeAddrs s0.history ++ taken ∧
    publishAddrs t.history = publishAddrs s0.history ++ (taken ++ t.pendingSlot) ∧
    (frames t.history).length + t.heldCount = (frames s0.history).length + taken.length

/-- The account speaks of the history, the slot and whether the controller waits. -/
theorem State.Accounted.of_eq {s0 s t : State} (h : s0.Accounted s) (hhist : t.history = s.history)
    (hslot : t.pendingSlot = s.pendingSlot) (hheld : t.heldCount = s.heldCount) : s0.Accounted t := by
  rw [State.Accounted, hhist, hslot, hheld]
  exact h

/-- An event is accounted for when what was pending, with what it publishes, is what it takes, with what is pending then,
and the buffers it takes or finds held are those it delivers or leaves held. -/
theorem State.Accounted.event {s0 s t : State} (h : s0.Accounted s) {e : Event} (hhist : t.history = s.history ++ [e])
    (hslot : s.pendingSlot ++ publishAddrs [e] = takeAddrs [e] ++ t.pendingSlot)
    (hheld : s.heldCount + (takeAddrs [e]).length = (frames [e]).length + t.heldCount) : s0.Accounted t := by
  obtain ⟨taken, htake, hpub, hframe⟩ := h
  refine ⟨taken ++ takeAddrs [e], ?_, ?_, ?_⟩
  · rw [hhist, takeAddrs_append, htake, List.append_assoc]
  · rw [hhist, publishAddrs_append, hpub, List.append_assoc, List.append_assoc, hslot, List.append_assoc]
  · rw [hhist, frames_append, List.length_append, List.length_append]
    omega

/-- A port word is in no account (R142). -/
theorem State.Accounted.log_port {s0 s : State} (h : s0.Accounted s) (w : Word) : s0.Accounted (s.log (.port w)) :=
  h.event rfl (List.append_nil _) (Nat.zero_add _).symm

/-- Publishing into the empty slot (R144). -/
theorem State.Accounted.publish {s0 s : State} (h : s0.Accounted s) (hslot : s.slotFull = false) (r : BitVec 1) :
    s0.Accounted (s.publish r) :=
  h.event rfl (by rw [State.pendingSlot, hslot]; rfl) (Nat.zero_add _).symm

/-- C_TAKE takes what is in the slot (R222). -/
theorem State.Accounted.takeBuffer {s0 s : State} (h : s0.Accounted s) (hc : s.cstate = .await)
    (hslot : s.slotFull = true) : s0.Accounted s.takeBuffer :=
  h.event rfl (by rw [State.pendingSlot, hslot]; rfl) (by rw [State.heldCount, hc]; rfl)

/-- C_EMIT gives the held buffer its frame (R229). -/
theorem State.Accounted.emitFrame {s0 s : State} (h : s0.Accounted s) (hc : s.cstate = .emit) :
    s0.Accounted s.emitFrame :=
  h.event rfl (List.append_nil _) (by rw [State.heldCount, hc]; rfl)

/-- The producer handler, where it raises no model fault, publishes into the empty slot or leaves the account. -/
theorem State.Accounted.producerHandler {s0 s t : State} {w : Word} (h : s0.Accounted s)
    (e : s.producerHandler w = .next t) (hf : t.faulted = none) : s0.Accounted t := by
  rcases State.producerHandler_next e with ⟨-, rfl⟩ | ⟨-, -, ⟨-, rfl⟩ | ⟨-, -, rfl⟩ | ⟨-, hslot, rfl⟩⟩
  · cases hf
  · exact h.of_eq rfl rfl rfl
  · cases hf
  · have hstored : s0.Accounted (s.stored w) := h.of_eq rfl rfl rfl
    exact (hstored.publish hslot s.active).of_eq rfl rfl rfl

/-- The controller's move from a state that does not wait leads to none that waits (R226). -/
theorem State.advance_cstate_ne_await {s : State} (hc : s.cstate ≠ .await) (c : BitVec 1) (j : BitVec 16) :
    (s.advance c j).cstate ≠ .await := by
  unfold State.advance
  split_ifs
  · exact hc
  · exact hc
  · nofun

/-- C_STEP's work leaves the buffer held, abandoned or complete (R226). -/
theorem State.filterStep_cstate_ne_await {s t : State} {c : BitVec 1} {j : BitVec 16} (hc : s.cstate ≠ .await)
    (e : s.filterStep c j = .next t) : t.cstate ≠ .await := by
  rcases State.filterStep_next e with
    rfl | ⟨w, window, coefs, -, -, -, ⟨-, -, rfl⟩ | ⟨-, v, -, rfl⟩ | ⟨-, rfl⟩⟩
  · exact hc
  · exact hc
  · exact State.advance_cstate_ne_await (by exact hc) c j
  · exact State.advance_cstate_ne_await (by exact hc) c j

/-- Every operation of a running block keeps the account, where it raises no model fault. -/
theorem State.Accounted.exec {s0 s t : State} {i : Instr} (h : s0.Accounted s) (e : exec i s = .next t)
    (hi : i ≠ .reset) (hr : s.runState = .running) (hf : t.faulted = none) : s0.Accounted t := by
  cases i with
  | mmioWr off v =>
    obtain ⟨-, rfl | ⟨hidle, -⟩ | ⟨hidle, -⟩⟩ := execMmioWr_next e
    · exact h
    · simp [hr] at hidle
    · simp [hr] at hidle
  | mmioRd off => obtain ⟨-, ⟨v, rfl⟩ | rfl⟩ := execMmioRd_next e <;> exact h.of_eq rfl rfl rfl
  | portWord w =>
    obtain ⟨-, ⟨-, rfl⟩ | ⟨-, hp⟩⟩ := execPortWord_next e
    · exact h.log_port w
    · exact (h.log_port w).producerHandler hp hf
  | cTake =>
    obtain ⟨-, -, hc, hs, rfl⟩ := execCTake_next e
    exact h.takeBuffer hc hs
  | cDeint =>
    obtain ⟨-, -, hc, ⟨k, rfl⟩ | ⟨u, hu, rfl⟩⟩ := execCDeint_next e
    · exact h.of_eq rfl rfl rfl
    · rw [State.deinterleave_frame hu]
      exact h.of_eq rfl rfl (by simp [State.heldCount, hc])
  | cStep c j =>
    obtain ⟨-, -, hc, -, -, hstep⟩ := execCStep_next e
    have hne : s.cstate ≠ .await := by simp [hc]
    have hheld : t.heldCount = s.heldCount :=
      (if_neg (State.filterStep_cstate_ne_await hne hstep)).trans (if_neg hne).symm
    rw [State.filterStep_frame hstep] at hheld ⊢
    exact h.of_eq rfl rfl hheld
  | cEmit =>
    obtain ⟨-, -, hc, rfl⟩ := execCEmit_next e
    exact h.emitFrame hc
  | reset => exact absurd rfl hi

/-! ## Along a run -/

/-- What every operation of a running block keeps, where it raises no model fault, holds at the end of every run without a
RESET that records none (R42, R285). -/
theorem runOps_keeps {P : State → Prop}
    (hstep : ∀ s t i, P s → exec i s = .next t → i ≠ .reset → s.runState = .running → t.faulted = none → P t)
    {is : List Instr} {s t : State} (hs : P s) (hreset : Instr.reset ∉ is) (hr : s.runState = .running)
    (e : runOps is s = .next t) (hf : t.faulted = none) : P t := by
  induction is generalizing s with
  | nil =>
    obtain rfl : s = t := Host.Outcome.next.inj e
    exact hs
  | cons i is ih =>
    simp only [List.mem_cons, not_or] at hreset
    obtain ⟨hi, hreset⟩ := hreset
    obtain ⟨u, hu, hrest⟩ := runOps_cons_next e
    have huf : u.faulted = none := by
      by_contra hne
      rw [runOps_of_faulted hne hreset hrest] at hf
      exact hne hf
    obtain ⟨hrunning, -⟩ := onlyResetLeavesRunningOrFault s i u hu (Ne.symm hi)
    obtain ⟨hru, -⟩ := hrunning hr
    exact ih (hstep s u i hs hu (Ne.symm hi) hr huf) hreset hru hrest

/-- START leaves the slot empty and the controller waiting (R256, R257). -/
theorem StartsIn.consumer {s : State} (h : StartsIn s) : s.slotFull = false ∧ s.cstate = .await := by
  obtain ⟨r, v, hidle, e, hr⟩ := h
  have e : execMmioWr 0x000#12 v r = .next s := e
  obtain ⟨-, rfl | ⟨-, -, -, hsetup⟩ | ⟨-, rfl⟩⟩ := execMmioWr_next e
  · simp [hidle] at hr
  · rcases State.setup_next hsetup with ⟨-, rfl⟩ | ⟨-, rfl⟩
    · exact ⟨rfl, rfl⟩
    · cases hr
  · simp [hidle] at hr

/-- Nothing is published, taken or delivered since START at START. -/
theorem StartsIn.accounted {s : State} (h : StartsIn s) : s.Accounted s := by
  obtain ⟨hslot, hc⟩ := h.consumer
  exact ⟨[], by simp, by simp [State.pendingSlot, hslot], by simp [State.heldCount, hc]⟩

/-- Settles O48: the account at the end of the run, where the slot is empty and no buffer is held. -/
theorem everyPublishedBufferGivesOneFrame : Obligations.EveryPublishedBufferGivesOneFrame := by
  intro s0 is t hstart hrun hf hc hslot
  obtain ⟨hreset, e⟩ := hrun
  obtain ⟨hr, -⟩ := hstart.producer
  obtain ⟨taken, htake, hpub, hframe⟩ := runOps_keeps (fun _ _ _ h => h.exec) hstart.accounted hreset hr e hf
  rw [State.pendingSlot, hslot] at hpub
  rw [State.heldCount, if_pos hc] at hframe
  exact ⟨taken, by simpa using hpub, htake, hframe⟩

end Sys2Proof.Machine
end

section
/-! PROOFS. One published buffer from C_TAKE to C_EMIT (R231, R232): the steps of one channel, by induction on its words,
then those of all channels, by induction on the channels. -/

namespace Sys2Proof.Machine

/-! ## Runs of words -/

/-- The words of a run are read alike in states that hold the same words there. -/
theorem State.memReads_congr {s t : State} {a n : Nat} (hp : t.params = s.params)
    (h : ∀ i < n, t.bufmem.read (a + i) = s.bufmem.read (a + i)) : t.memReads a n = s.memReads a n := by
  induction n generalizing a with
  | zero => rfl
  | succ n ih =>
    have hnext : t.memReads (a + 1) n = s.memReads (a + 1) n :=
      ih fun i hi => by simpa only [Nat.add_assoc, Nat.add_comm 1] using h (i + 1) (by omega)
    have hword : t.bufmem.read a = s.bufmem.read a := h 0 (Nat.succ_pos n)
    rw [State.memReads, State.memReads, hnext, State.memRead, State.memRead, hp, hword]

/-- A part of a run of words that was read. -/
theorem State.memReads_slice {s : State} {a n : Nat} {ws : List Word} (h : s.memReads a n = .ok ws) {k m : Nat}
    (hk : k + m ≤ n) : s.memReads (a + k) m = .ok ((ws.drop k).take m) := by
  obtain ⟨hlen, hread⟩ := State.memReads_ok.1 h
  refine State.memReads_ok.2 ⟨by simp; omega, fun i hi => ?_⟩
  simp only [List.length_take, List.length_drop] at hi
  have hword := hread (k + i) (by omega)
  rw [List.getElem_take, List.getElem_drop, Nat.add_assoc]
  exact hword

/-- The last word of a run that was read, and the words below it. -/
theorem State.memReads_concat {s : State} {a : Nat} {ws : List Word} {w : Word}
    (h : s.memReads a (ws ++ [w]).length = .ok (ws ++ [w])) :
    s.memReads a ws.length = .ok ws ∧ s.memRead (a + ws.length) = .ok w := by
  obtain ⟨-, hread⟩ := State.memReads_ok.1 h
  refine ⟨State.memReads_ok.2 ⟨rfl, fun i hi => ?_⟩, State.memRead_ok.2 ?_⟩
  · have hword := hread i (by simp; omega)
    rwa [List.getElem_append_left hi] at hword
  · have hword := hread ws.length (by simp)
    rwa [List.getElem_concat_length rfl] at hword

/-! ## One channel (R223, R226) -/

/-- The window and the delay line of channel `c` once both stages took the words `ws`, oldest first (R185, R203). -/
def State.fed (s : State) (k1 window ws : List Word) (c : BitVec 1) : List Word × List Word :=
  feed s.params.bitMap k1 s.params.s2TapsMax (window, (s.chan c).dl) ws

section FilterFrame

variable {s t : State} (h : s.FilterFrame t)
include h

/-- Whatever does not read the parts that change is kept. -/
theorem State.FilterFrame.keeps {α : Type} (f : State → α)
    (hf : f { s with
      bufmem := t.bufmem, chan0 := t.chan0, chan1 := t.chan1, cstate := t.cstate, ch := t.ch, wix := t.wix } = f s) :
    f t = f s :=
  (congrArg f h).trans hf

theorem State.FilterFrame.params : t.params = s.params := h.keeps State.params rfl
theorem State.FilterFrame.decim : t.decim = s.decim := h.keeps State.decim rfl
theorem State.FilterFrame.s2Shift : t.s2Shift = s.s2Shift := h.keeps State.s2Shift rfl
theorem State.FilterFrame.cur : t.cur = s.cur := h.keeps State.cur rfl
theorem State.FilterFrame.runState : t.runState = s.runState := h.keeps State.runState rfl
theorem State.FilterFrame.faulted : t.faulted = s.faulted := h.keeps State.faulted rfl
theorem State.FilterFrame.slotFull : t.slotFull = s.slotFull := h.keeps State.slotFull rfl
theorem State.FilterFrame.history : t.history = s.history := h.keeps State.history rfl
theorem State.FilterFrame.numChannels : t.numChannels = s.numChannels := h.keeps State.numChannels rfl
theorem State.FilterFrame.decimation : t.decimation = s.decimation := h.keeps State.decimation rfl

theorem State.FilterFrame.histBase (c : Nat) : t.histBase c = s.histBase c :=
  h.keeps (State.histBase · c) rfl

theorem State.FilterFrame.trans {u : State} (h' : t.FilterFrame u) : s.FilterFrame u := by
  unfold State.FilterFrame at h h' ⊢
  refine h'.trans ?_
  rw [h]

/-- C_STEPs that leave the block in FILT leave it filtering. -/
theorem State.FilterFrame.filtering {k1 k2 : List Word} (hs : s.Filtering k1 k2) (hinv : t.Inv)
    (hc : t.cstate = .filt) : t.Filtering k1 k2 where
  inv := hinv
  faulted := h.faulted.trans hs.faulted
  running := h.runState.trans hs.running
  filt := hc
  coefs1 := (h.keeps (fun u => readCoefs u.s1Coef 0 256) rfl).trans hs.coefs1
  coefs2 := (h.keeps (fun u => readCoefs u.s2Coef 0 u.ntaps.toNat) rfl).trans hs.coefs2

end FilterFrame

/-- What the C_STEPs of channel `c` for the words `ws`, oldest first, leave from `s` in `t`. -/
structure State.ChannelFed (s : State) (k1 k2 window ws : List Word) (c : BitVec 1) (t : State) : Prop where
  inv : t.Inv
  frame : s.FilterFrame t
  windowRead : t.memReads (s.histBase c.toNat) 8 = .ok (s.fed k1 window ws c).1
  delays : (t.chan c).dl = (s.fed k1 window ws c).2
  output : (t.chan c).frm = s2Filter s.s2Shift.toNat k2 (s.fed k1 window ws c).2
  outside : ∀ a, a < s.histBase c.toNat ∨ s.histBase c.toNat + 8 ≤ a → t.bufmem.read a = s.bufmem.read a
  others : ∀ c', c' ≠ c → t.chan c' = s.chan c'
  next : c.toNat + 1 < s.numChannels → t.cstate = .filt ∧ t.ch = c + 1 ∧ t.wix = s.decim - 1
  last : ¬c.toNat + 1 < s.numChannels → t.cstate = .emit

/-- The window C_STEP leaves, as it is read back. -/
theorem State.fedWord_window {s : State} {k1 k2 window : List Word} {w : Word}
    (hwin : s.memReads (s.histBase s.ch.toNat) 8 = .ok window) :
    (s.fedWord k1 k2 w window).memReads (s.histBase s.ch.toNat) 8 = .ok (shiftIn window w) := by
  obtain ⟨hlen, hread⟩ := State.memReads_ok.1 hwin
  have hlen' := shiftIn_length hlen w
  refine State.memReads_ok.2 ⟨hlen', fun k hk => ⟨?_, ?_⟩⟩
  · rw [State.fedWord_frame.params]
    exact (hread k (by omega)).1
  · rw [State.fedWord_read_window hlen (by omega), List.getElem?_eq_getElem]

/-- An older word in front of the others of its channel. -/
theorem State.ChannelFed.cons {s t : State} {k1 k2 window ws : List Word} {w : Word} (hlen : window.length = 8)
    (ht : (s.fedWord k1 k2 w window).ChannelFed k1 k2 (shiftIn window w) ws s.ch t) :
    s.ChannelFed k1 k2 window (w :: ws) s.ch t := by
  have hframe : s.FilterFrame (s.fedWord k1 k2 w window) := State.fedWord_frame
  have hfed : (s.fedWord k1 k2 w window).fed k1 (shiftIn window w) ws s.ch = s.fed k1 window (w :: ws) s.ch := by
    rw [State.fed, State.fedWord_chan_self, hframe.params]
    rfl
  obtain ⟨hinv, htframe, hwindow, hdl, hout, hmem, hothers, hnext, hlast⟩ := ht
  rw [hfed] at hwindow hdl hout
  rw [hframe.histBase] at hwindow hmem
  rw [hframe.s2Shift] at hout
  rw [hframe.numChannels] at hnext hlast
  rw [hframe.decim] at hnext
  exact ⟨hinv, hframe.trans htframe, hwindow, hdl, hout,
    fun a ha => (hmem a ha).trans (State.fedWord_read_outside hlen ha),
    fun c' hne => (hothers c' hne).trans (State.fedWord_chan_of_ne hne), hnext, hlast⟩

/-- The D words of a channel lie inside the region (R6, R163). -/
theorem State.channel_end_le {s : State} {c : Nat} (hc : c < s.numChannels) :
    c * s.decimation + s.decimation ≤ s.regionLen := by
  rw [← Nat.succ_mul]
  exact Nat.mul_le_mul_right _ hc

section Words

variable {s : State} {k1 k2 : List Word} (h : s.Filtering k1 k2)
include h

/-- The channel's words lie below all windows (R73, R87). -/
theorem State.Filtering.word_below_windows {i : Nat} (hi : i < s.decimation) (c : Nat) :
    s.cur.toNat + s.ch.toNat * s.decimation + i < s.histBase c := by
  obtain ⟨hchk, r50, -⟩ := h.inv.running h.running h.faulted
  have hrun : s.RunInv := h.inv.running h.running h.faulted
  obtain ⟨-, -, -, -, -, -, hregion, -⟩ := State.geometry hchk h.inv.shaped.params
  obtain ⟨r, hcur⟩ := hrun.held_region (r50.d.2 (by simp [h.filt]))
  obtain ⟨hch, -⟩ := r50.e h.filt
  have hchannel := State.channel_end_le hch
  have := hregion r
  rw [State.histBase_eq]
  omega

/-- C_STEP leaves the words of its channel as they are: it stores in the window alone (R226). -/
theorem State.Filtering.fedWord_words {w : Word} {window ws : List Word} {n : Nat} (hlen : window.length = 8)
    (hn : n ≤ s.decimation) (hws : s.memReads (s.cur.toNat + s.ch.toNat * s.decimation) n = .ok ws) :
    (s.fedWord k1 k2 w window).memReads (s.cur.toNat + s.ch.toNat * s.decimation) n = .ok ws := by
  refine (State.memReads_congr State.fedWord_frame.params fun i hi => ?_).trans hws
  exact State.fedWord_read_outside hlen (.inl (h.word_below_windows (by omega) _))

/-- The channel's newest word (R226). -/
theorem State.Filtering.channelFed_newest {w : Word} {window : List Word}
    (hw : s.memRead (s.cur.toNat + s.ch.toNat * s.decimation + s.wix.toNat) = .ok w)
    (hwin : s.memReads (s.histBase s.ch.toNat) 8 = .ok window) (hj : s.wix = 0#16) :
    s.ChannelFed k1 k2 window [w] s.ch (s.fedWord k1 k2 w window) where
  inv := h.inv.exec (h.exec_cStep hw hwin)
  frame := State.fedWord_frame
  windowRead := State.fedWord_window hwin
  delays := congrArg Channel.dl State.fedWord_chan_self
  output := (congrArg Channel.frm State.fedWord_chan_self).trans (if_pos hj)
  outside _ := State.fedWord_read_outside (State.memReads_ok.1 hwin).1
  others _ := State.fedWord_chan_of_ne
  next hc := h.filt ▸ State.fedWord_of_channel hj hc
  last hc := (State.fedWord_of_emit hj hc).1

end Words

/-- The C_STEPs of a channel, from any of its words down to the newest, all run (R226, R231). -/
theorem State.Filtering.channel_runs {s : State} {k1 k2 window ws : List Word} {c : BitVec 1}
    (h : s.Filtering k1 k2) (hc : s.ch = c) (hlen : ws.length = s.wix.toNat + 1)
    (hwords : s.memReads (s.cur.toNat + c.toNat * s.decimation) ws.length = .ok ws)
    (hwin : s.memReads (s.histBase c.toNat) 8 = .ok window) :
    ∃ t, runOps (channelSteps ws.length c.toNat) s = .next t ∧ s.ChannelFed k1 k2 window ws.reverse c t := by
  subst hc
  induction ws using List.reverseRecOn generalizing s window with
  | nil => cases hlen
  | append_singleton ws w ih =>
    obtain ⟨hwinlen, -⟩ := State.memReads_ok.1 hwin
    obtain ⟨hbelow, hw⟩ := State.memReads_concat hwords
    have hwix : ws.length = s.wix.toNat := by simpa using hlen
    rw [hwix] at hw
    have hstep := h.exec_cStep hw hwin
    have hfirst : channelSteps (ws ++ [w]).length s.ch.toNat =
        .cStep s.ch s.wix :: channelSteps ws.length s.ch.toNat := by
      rw [List.length_append, List.length_singleton, channelSteps_succ, hwix, BitVec.ofNat_toNat, BitVec.ofNat_toNat,
        BitVec.setWidth_eq, BitVec.setWidth_eq]
    rw [hfirst, runOps_cons_of_next hstep, List.reverse_append, List.reverse_singleton, List.singleton_append]
    by_cases hj : s.wix = 0#16
    · obtain rfl : ws = [] := List.length_eq_zero_iff.1 (by rw [hwix, hj]; rfl)
      exact ⟨_, rfl, h.channelFed_newest hw hwin hj⟩
    · obtain ⟨-, r50, -⟩ := h.inv.running h.running h.faulted
      obtain ⟨-, hlt⟩ := r50.e h.filt
      obtain ⟨hfilt, hch, hdown⟩ := State.fedWord_of_word (k1 := k1) (k2 := k2) (w := w) (window := window) hj
      have hframe : s.FilterFrame (s.fedWord k1 k2 w window) := State.fedWord_frame
      have hnext : (s.fedWord k1 k2 w window).Filtering k1 k2 :=
        hframe.filtering h (h.inv.exec hstep) (hfilt.trans h.filt)
      have hwix' : ws.length = (s.fedWord k1 k2 w window).wix.toNat + 1 := by
        rw [hdown]
        bv_omega
      have ih := ih (s := s.fedWord k1 k2 w window) (window := shiftIn window w) hnext hwix'
      rw [hch, hframe.histBase, hframe.cur, hframe.decimation] at ih
      obtain ⟨t, ht, hfed⟩ := ih (h.fedWord_words hwinlen (by omega) hbelow) (State.fedWord_window hwin)
      exact ⟨t, ht, hfed.cons hwinlen⟩

end Sys2Proof.Machine
end

section
/-! PROOFS. All channels of one buffer, by induction on the channels, and the whole buffer from C_TAKE to C_EMIT (R231,
R232). -/

namespace Sys2Proof.Machine

/-! ## All channels (R223, R231) -/

/-- The block starts to filter a buffer: channel 0's oldest word is next, and it finds the windows and the channels' blocks
of D words, newest first (R164, R223). -/
structure State.FilterStart (s : State) (k1 k2 : List Word) (window block : Nat → List Word) : Prop where
  filtering : s.Filtering k1 k2
  ch : s.ch = 0#1
  wix : s.wix = s.decim - 1
  windows : ∀ c < s.numChannels, s.memReads (s.histBase c) 8 = .ok (window c)
  blocks : ∀ c < s.numChannels, s.memReads (s.cur.toNat + c * s.decimation) s.decimation = .ok (block c)

/-- What the C_STEPs of the channels below `n` leave from `s` in `t`. -/
structure State.FedUpTo (s : State) (k1 k2 : List Word) (window block : Nat → List Word) (n : Nat) (t : State) :
    Prop where
  inv : t.Inv
  frame : s.FilterFrame t
  fed : ∀ c < n,
    t.memReads (s.histBase c) 8 = .ok (s.fed k1 (window c) (block c).reverse (BitVec.ofNat 1 c)).1 ∧
    (t.chan (BitVec.ofNat 1 c)).dl = (s.fed k1 (window c) (block c).reverse (BitVec.ofNat 1 c)).2 ∧
    (t.chan (BitVec.ofNat 1 c)).frm =
      s2Filter s.s2Shift.toNat k2 (s.fed k1 (window c) (block c).reverse (BitVec.ofNat 1 c)).2
  unfed : ∀ c, n ≤ c → c < s.numChannels → t.chan (BitVec.ofNat 1 c) = s.chan (BitVec.ofNat 1 c)
  outside : ∀ a, a < s.histBase 0 ∨ s.histBase n ≤ a → t.bufmem.read a = s.bufmem.read a
  next : n < s.numChannels → t.cstate = .filt ∧ t.ch = BitVec.ofNat 1 n ∧ t.wix = s.decim - 1
  last : n = s.numChannels → t.cstate = .emit

/-- There are at most two channels (R281). -/
theorem State.Filtering.numChannels_le {s : State} {k1 k2 : List Word} (h : s.Filtering k1 k2) :
    1 ≤ s.numChannels ∧ s.numChannels ≤ 2 := by
  obtain ⟨hchk, -⟩ := h.inv.running h.running h.faulted
  obtain ⟨hc, -⟩ := State.setupCheck_none.1 hchk
  omega

theorem runOps_append_of_next {a b : List Instr} {s u : State} (h : runOps a s = .next u) :
    runOps (a ++ b) s = runOps b u := by
  rw [runOps_append, h]

/-- The numbers of the two channels are apart. -/
theorem ofNat_channel_ne {c n : Nat} (hcn : c ≠ n) (hc : c < 2) (hn : n < 2) :
    BitVec.ofNat 1 c ≠ BitVec.ofNat 1 n := by
  bv_omega

/-- The windows follow one another (R73). -/
theorem State.histBase_succ (s : State) (c : Nat) : s.histBase (c + 1) = s.histBase c + 8 := by
  simp only [State.histBase_eq]
  omega

theorem State.histBase_mono (s : State) {c d : Nat} (h : c ≤ d) : s.histBase c ≤ s.histBase d := by
  simp only [State.histBase_eq]
  omega

section Channels

variable {s : State} {k1 k2 : List Word} {window block : Nat → List Word} (h : s.FilterStart k1 k2 window block)
include h

theorem State.FilterStart.fedUpTo_zero : s.FedUpTo k1 k2 window block 0 s where
  inv := h.filtering.inv
  frame := rfl
  fed := nofun
  unfed _ _ _ := rfl
  outside _ _ := rfl
  next _ := ⟨h.filtering.filt, h.ch, h.wix⟩
  last hzero := by
    have := h.filtering.numChannels_le
    omega

variable {n : Nat} {t : State} (ht : s.FedUpTo k1 k2 window block n t) (hn : n < s.numChannels)
include ht hn

/-- The C_STEPs of the next channel all run: what they read is as it was when filtering started. -/
theorem State.FilterStart.next_channel_runs :
    ∃ u, runOps (channelSteps s.decimation n) t = .next u ∧
      t.ChannelFed k1 k2 (window n) (block n).reverse (BitVec.ofNat 1 n) u := by
  obtain ⟨hfilt, hch, hwix⟩ := ht.next hn
  obtain ⟨-, hle⟩ := h.filtering.numChannels_le
  obtain ⟨hchk, -⟩ := h.filtering.inv.running h.filtering.running h.filtering.faulted
  obtain ⟨holdest, hpos⟩ := State.oldestWord_toNat hchk
  have hnum : (BitVec.ofNat 1 n).toNat = n := Nat.mod_eq_of_lt (by omega)
  have htf : t.Filtering k1 k2 := ht.frame.filtering h.filtering ht.inv hfilt
  have hblock : (block n).length = s.decimation := (State.memReads_ok.1 (h.blocks n hn)).1
  have hwords : t.memReads (t.cur.toNat + n * t.decimation) s.decimation = .ok (block n) := by
    refine Eq.trans (State.memReads_congr ht.frame.params fun i hi => ht.outside _ (.inl ?_)) ?_
    · have hbelow := htf.word_below_windows (ht.frame.decimation ▸ hi) 0
      rwa [hch, hnum, ht.frame.histBase] at hbelow
    · rw [ht.frame.cur, ht.frame.decimation]
      exact h.blocks n hn
  have hwin : t.memReads (t.histBase n) 8 = .ok (window n) := by
    rw [ht.frame.histBase]
    exact (State.memReads_congr ht.frame.params fun i _ => ht.outside _ (.inr (by omega))).trans (h.windows n hn)
  have hruns := htf.channel_runs (window := window n) (ws := block n) hch
  rw [hblock, hnum] at hruns
  exact hruns (by rw [hwix, holdest]; omega) hwords hwin

/-- One channel more. -/
theorem State.FilterStart.fedUpTo_succ {u : State}
    (hu : t.ChannelFed k1 k2 (window n) (block n).reverse (BitVec.ofNat 1 n) u) :
    s.FedUpTo k1 k2 window block (n + 1) u := by
  obtain ⟨-, hle⟩ := h.filtering.numChannels_le
  have hnum : (BitVec.ofNat 1 n).toNat = n := Nat.mod_eq_of_lt (by omega)
  obtain ⟨hinv, hframe, hwindow, hdl, hout, hmem, hothers, hnext, hlast⟩ := hu
  have hfed : t.fed k1 (window n) (block n).reverse (BitVec.ofNat 1 n) =
      s.fed k1 (window n) (block n).reverse (BitVec.ofNat 1 n) := by
    rw [State.fed, ht.frame.params, ht.unfed n (Nat.le_refl n) hn]
    rfl
  rw [hnum, ht.frame.histBase] at hwindow hmem
  rw [hnum, ht.frame.numChannels] at hnext hlast
  rw [ht.frame.s2Shift] at hout
  rw [ht.frame.decim] at hnext
  rw [hfed] at hwindow hdl hout
  have hwindowEnd := s.histBase_succ n
  refine ⟨hinv, ht.frame.trans hframe, fun c hc => ?_, fun c hc hlt => ?_, fun a ha => ?_, fun hlt => ?_,
    fun hall => ?_⟩
  · by_cases hsame : c = n
    · subst hsame
      exact ⟨hwindow, hdl, hout⟩
    · have hbefore : s.histBase (c + 1) ≤ s.histBase n := s.histBase_mono (by omega)
      have hkept : u.memReads (s.histBase c) 8 = t.memReads (s.histBase c) 8 :=
        State.memReads_congr hframe.params fun i hi => hmem _ (.inl (by rw [s.histBase_succ] at hbefore; omega))
      rw [hkept, hothers _ (ofNat_channel_ne hsame (by omega) (by omega))]
      exact ht.fed c (by omega)
  · rw [hothers _ (ofNat_channel_ne (by omega) (by omega) (by omega))]
    exact ht.unfed c (by omega) hlt
  · have hfirst : s.histBase 0 ≤ s.histBase n := s.histBase_mono (Nat.zero_le n)
    rw [hmem a (by omega)]
    exact ht.outside a (by omega)
  · obtain ⟨hfilt, hch, hwix⟩ := hnext hlt
    exact ⟨hfilt, hch.trans (by bv_omega), hwix⟩
  · exact hlast (by omega)

omit ht hn

/-- The C_STEPs of any number of channels all run. -/
theorem State.FilterStart.channels_run {n : Nat} (hn : n ≤ s.numChannels) :
    ∃ t, runOps ((List.range n).flatMap (channelSteps s.decimation)) s = .next t ∧
      s.FedUpTo k1 k2 window block n t := by
  induction n with
  | zero => exact ⟨s, rfl, h.fedUpTo_zero⟩
  | succ n ih =>
    obtain ⟨t, ht, hfed⟩ := ih (by omega)
    obtain ⟨u, hu, hnext⟩ := h.next_channel_runs hfed hn
    refine ⟨u, ?_, h.fedUpTo_succ hfed hn hnext⟩
    rw [List.range_succ, List.flatMap_append, List.flatMap_singleton]
    exact (runOps_append_of_next ht).trans hu

end Channels

/-! ## The whole buffer (R222, R164, R229) -/

/-- The block after C_DEINT: channel by channel D words, newest first (R161, R163). -/
def deinterleaved (c d : Nat) (b : List Word) : List Word := if c = 2 then deint2 d b else deint1 b

/-- The D words of channel `c` in such a block (R163). -/
def channelBlock (d : Nat) (b : List Word) (c : Nat) : List Word := (b.drop (c * d)).take d

/-- C_DEINT's work on a held region that was read leaves the deinterleaved block there, and every word above it as it
was (R164). -/
theorem State.deinterleave_of_memReads {s : State} {b : List Word} (hpos : 1 ≤ s.regionLen)
    (hb : s.memReads s.cur.toNat s.regionLen = .ok b) :
    ∃ m, s.deinterleave = .ok (s.setBufmem m) ∧
      (s.setBufmem m).memReads s.cur.toNat s.regionLen = .ok (deinterleaved s.numChannels s.decimation b) ∧
      ∀ a, s.cur.toNat + s.regionLen ≤ a → m.read a = s.bufmem.read a := by
  by_cases h2 : s.numChannels = 2
  · have hfit := State.memReads_bound hb hpos
    have hlen : (deint2 s.decimation b).length = s.regionLen := by rw [deint2_length, State.regionLen, h2]
    refine ⟨_, State.deinterleave_of_read h2 hfit hb, ?_, fun a ha => Memory.read_writeRun_outside _ (by omega)⟩
    rw [deinterleaved, if_pos h2]
    exact State.memReads_ok.2 ⟨hlen, fun i hi => ⟨by show _ < s.params.bufmemWords; omega,
      Memory.read_writeRun_inside _ _ hi⟩⟩
  · refine ⟨s.bufmem, State.deinterleave_of_ne_two h2, ?_, fun _ _ => rfl⟩
    rw [deinterleaved, if_neg h2]
    exact hb

/-- The samples of a frame, channel by channel (R229). -/
theorem State.frameSamples_eq_map {s : State} (h : s.numChannels = 1 ∨ s.numChannels = 2) :
    s.frameSamples = (List.range s.numChannels).map fun c => (s.chan (BitVec.ofNat 1 c)).frm := by
  rw [State.frameSamples]
  rcases h with h | h <;> rw [h] <;> rfl

theorem consumeOps_eq (c d : Nat) :
    consumeOps c d = [.cTake, .cDeint] ++ ((List.range c).flatMap (channelSteps d) ++ [.cEmit]) := rfl

theorem consumeOps_length (c d : Nat) : (consumeOps c d).length = 3 + c * d := by
  simp [consumeOps_eq, channelSteps, List.length_flatMap]
  omega

@[simp] theorem State.takeBuffer_memReads (s : State) (a n : Nat) : s.takeBuffer.memReads a n = s.memReads a n :=
  State.memReads_congr rfl fun _ _ => rfl

@[simp] theorem State.startFiltering_memReads (s : State) (a n : Nat) :
    s.startFiltering.memReads a n = s.memReads a n :=
  State.memReads_congr rfl fun _ _ => rfl

section Consume

variable {s : State} (hinv : s.Inv) (hf : s.faulted = none) (hr : s.runState = .running) (hc : s.cstate = .await)
  (hs : s.slotFull = true) {b k1 k2 : List Word} {window : Nat → List Word}
  (hb : s.memReads s.slotAddr.toNat s.regionLen = .ok b) (hk1 : readCoefs s.s1Coef 0 256 = .ok k1)
  (hk2 : readCoefs s.s2Coef 0 s.ntaps.toNat = .ok k2)
  (hwin : ∀ c < s.numChannels, s.memReads (s.histBase c) 8 = .ok (window c))
include hinv hf hr hc hs hb hk1 hk2 hwin

/-- C_TAKE and C_DEINT run, and the block starts to filter the deinterleaved buffer (R222, R164). -/
theorem State.Inv.take_deint_runs :
    ∃ m, runOps [.cTake, .cDeint] s = .next (s.takeBuffer.setBufmem m).startFiltering ∧
      (s.takeBuffer.setBufmem m).startFiltering.FilterStart k1 k2 window
        (channelBlock s.decimation (deinterleaved s.numChannels s.decimation b)) := by
  obtain ⟨hchk, r50, -⟩ := hinv.running hr hf
  obtain ⟨-, -, hpos, -, -, -, hregion, -⟩ := State.geometry hchk hinv.shaped.params
  have htake := exec_cTake_of_enabled hf hr hc hs
  have hheld : s.takeBuffer.memReads s.takeBuffer.cur.toNat s.takeBuffer.regionLen = .ok b :=
    (s.takeBuffer_memReads _ _).trans hb
  obtain ⟨m, hdeint, hblock, habove⟩ := State.deinterleave_of_memReads (s := s.takeBuffer) hpos hheld
  have hexec := exec_cDeint_of_ok (s := s.takeBuffer) hf hr rfl hdeint
  refine ⟨m, (runOps_cons_of_next htake).trans (runOps_cons_of_next hexec),
    ⟨(hinv.exec htake).exec hexec, hf, hr, rfl, hk1, hk2⟩, rfl, rfl, fun c hlt => ?_, fun c hlt => ?_⟩
  · rw [State.startFiltering_memReads, ← hwin c hlt]
    refine State.memReads_congr rfl fun i _ => habove _ ?_
    have := hregion (1#1 - s.active)
    show s.slotAddr.toNat + s.regionLen ≤ s.histBase c + i
    rw [r50.b hs, State.histBase_eq]
    omega
  · exact (State.startFiltering_memReads _ _ _).trans (State.memReads_slice hblock (State.channel_end_le hlt))

/-- The operations of `consume` all run; C_EMIT is the last, from where the C_STEPs of all channels leave the block. -/
theorem State.Inv.consume_runs :
    ∃ m t, runOps (consumeOps s.numChannels s.decimation) s = .next t.emitFrame ∧
      (s.takeBuffer.setBufmem m).startFiltering.FedUpTo k1 k2 window
        (channelBlock s.decimation (deinterleaved s.numChannels s.decimation b)) s.numChannels t := by
  obtain ⟨m, hstart, hfilter⟩ := hinv.take_deint_runs hf hr hc hs hb hk1 hk2 hwin
  obtain ⟨t, hsteps, hfed⟩ := hfilter.channels_run (Nat.le_refl _)
  have hemit := exec_cEmit_of_enabled (hfed.frame.faulted.trans hf) (hfed.frame.runState.trans hr) (hfed.last rfl)
  refine ⟨m, t, ?_, hfed⟩
  rw [consumeOps_eq, runOps_append_of_next hstart]
  exact (runOps_append_of_next hsteps).trans (runOps_cons_of_next hemit)

end Consume

/-- Settles O47: the reads from the statement's words, and the frame from what every channel holds before C_EMIT. -/
theorem consumingABufferEmitsItsFrame : Obligations.ConsumingABufferEmitsItsFrame := by
  intro s b k1 k2 hinv hf hr hc hs ⟨hblen, hb⟩ hk1 hk2 C D block window hwindow fed
  obtain ⟨hchk, r50, -⟩ := hinv.running hr hf
  obtain ⟨hchannels, -, -, -, hfit, -, hregion, -⟩ := State.geometry hchk hinv.shaped.params
  have hread : s.memReads s.slotAddr.toNat s.regionLen = .ok b := by
    have := hregion (1#1 - s.active)
    exact State.memReads_ok.2 ⟨hblen, fun i hi => ⟨by rw [r50.b hs]; omega, hb i hi⟩⟩
  have hwin (c : Nat) (hlt : c < s.numChannels) : s.memReads (s.histBase c) 8 = .ok (window c) := by
    obtain ⟨hlen, hwords⟩ := hwindow c hlt
    refine State.memReads_ok.2 ⟨hlen, fun k hk => ⟨by rw [State.histBase_eq]; omega, ?_⟩⟩
    rw [hwords k (hlen ▸ hk), List.getElem?_eq_getElem hk]
  have hcoefs1 : readCoefs s.s1Coef 0 256 = .ok k1 := by simpa [readCoefs_ok] using hk1
  have hcoefs2 : readCoefs s.s2Coef 0 s.ntaps.toNat = .ok k2 := by simpa [readCoefs_ok] using hk2
  obtain ⟨m, t, hruns, hfed⟩ := hinv.consume_runs hf hr hc hs hread hcoefs1 hcoefs2 hwin
  have hC : t.numChannels = C := hfed.frame.numChannels
  have hsamples : t.frameSamples = (List.range C).map fun c => s2Filter s.s2Shift.toNat k2 (fed c).2 := by
    rw [State.frameSamples_eq_map (hC ▸ hchannels), hC]
    refine List.map_congr_left fun c hlt => ?_
    obtain ⟨-, -, houtput⟩ := hfed.fed c (List.mem_range.1 hlt)
    exact houtput
  refine ⟨consumeOps_length C D, t.emitFrame, hruns, hfed.frame.faulted.trans hf, hfed.frame.runState.trans hr, rfl,
    rfl, hfed.frame.slotFull, ?_, fun c hlt => ?_⟩
  · rw [State.emitFrame_history, hsamples, hfed.frame.history]
    exact List.append_assoc _ _ _
  · obtain ⟨hwindow, hdl, -⟩ := hfed.fed c hlt
    exact ⟨hdl, fun k hk => State.memReads_getElem? hwindow hk⟩

end Sys2Proof.Machine
end

section
/-! PROOFS. What the host's two transactions do at every offset, and the config lock (R251 to R253). -/

namespace Sys2Proof.Machine

section HostWrite

variable {s : State} (v : Word) (hf : s.faulted = none)
include hf

/-- A write of CTRL asks for nothing but a START, and that in IDLE only (R251). -/
theorem exec_mmioWr_ctrl :
    exec (.mmioWr 0x000#12 v) s = if v.getLsbD 0 = true ∧ s.runState = .idle then s.setup else .next s :=
  State.unlessFaulted_none hf _

/-- The config lock: outside IDLE a write is ignored, whatever register it names (R253). -/
theorem exec_mmioWr_of_not_idle (hr : s.runState ≠ .idle) (off : BitVec 12) : exec (.mmioWr off v) s = .next s := by
  by_cases hctrl : mmioReg s.params.s2TapsMax off = .ctrl
  · have hnot : ¬(v.getLsbD 0 = true ∧ s.runState = .idle) := fun h => hr h.2
    show execMmioWr off v s = _
    unfold execMmioWr
    rw [State.unlessFaulted_none hf, hctrl]
    exact if_neg hnot
  · rw [exec_mmioWr_of_ne_ctrl v hf rfl hctrl, if_neg hr]

variable {off : BitVec 12} {r : MmioReg} (hreg : mmioReg s.params.s2TapsMax off = r)
include hreg

/-- In IDLE a write of any register but CTRL is let through (R251). -/
theorem exec_mmioWr_of_idle (hidle : s.runState = .idle) (hne : r ≠ .ctrl) :
    exec (.mmioWr off v) s = .next (s.writeConfig r v) := by
  rw [exec_mmioWr_of_ne_ctrl v hf hreg hne, if_pos hidle]

/-- A write of a register that no write reaches is ignored in every run state (R251). -/
theorem exec_mmioWr_of_readOnly (hro : r ∈ [MmioReg.status, .reqWords, .unmapped]) :
    exec (.mmioWr off v) s = .next s := by
  have hkeeps : r ≠ .ctrl ∧ s.writeConfig r v = s := by
    simp only [List.mem_cons, List.not_mem_nil, or_false] at hro
    rcases hro with rfl | rfl | rfl <;> exact ⟨nofun, rfl⟩
  obtain ⟨hne, hkeeps⟩ := hkeeps
  rw [exec_mmioWr_of_ne_ctrl v hf hreg hne, hkeeps, ite_self]

end HostWrite

/-- Settles O10: CTRL by its own case, the other registers by the one that each offset names. -/
theorem hostWriteEffect : Obligations.HostWriteEffect := by
  intro s v hp hf
  refine ⟨fun hv hidle => ?_, fun hnot => ?_, exec_mmioWr_of_readOnly v hf (r := .status) rfl (by decide),
    exec_mmioWr_of_readOnly v hf (r := .reqWords) rfl (by decide), exec_mmioWr_of_not_idle v hf,
    fun hidle => ⟨?_, ?_, ?_, ?_, fun t ht => ?_, fun k hk => ?_, fun off _ hoff => ?_⟩⟩
  · rw [exec_mmioWr_ctrl v hf, if_pos ⟨hv, hidle⟩]
  · rw [exec_mmioWr_ctrl v hf, if_neg hnot]
  · exact exec_mmioWr_of_idle v hf (r := .cfg) rfl hidle nofun
  · exact exec_mmioWr_of_idle v hf (r := .s2Ntaps) rfl hidle nofun
  · exact exec_mmioWr_of_idle v hf (r := .bufBase) rfl hidle nofun
  · exact exec_mmioWr_of_idle v hf (r := .bufWords) rfl hidle nofun
  · exact exec_mmioWr_of_idle v hf (mmioReg_s1Coef _ ht) hidle nofun
  · exact exec_mmioWr_of_idle v hf (mmioReg_s2Coef hk hp.2.1) hidle nofun
  · exact exec_mmioWr_of_readOnly v hf (mmioReg_unmapped hoff) (by decide)

/-! ## The config lock (R88, R253) -/

/-- `t` has the configuration registers and the coefficients of `s`. -/
def State.SameConfig (s t : State) : Prop :=
  t.channels = s.channels ∧ t.s2Shift = s.s2Shift ∧ t.decim = s.decim ∧ t.ntaps = s.ntaps ∧
    t.bufBase = s.bufBase ∧ t.bufWords = s.bufWords ∧ t.s1Coef = s.s1Coef ∧ t.s2Coef = s.s2Coef

theorem State.SameConfig.refl (s : State) : s.SameConfig s := ⟨rfl, rfl, rfl, rfl, rfl, rfl, rfl, rfl⟩

/-- The consumer steps keep the configuration: their frame does not name it (R87). -/
theorem consumer_sameConfig {s t : State} {i : Instr} (h : exec i s = .next t)
    (hi : i = .cTake ∨ i = .cDeint ∨ i = .cEmit ∨ ∃ c j, i = .cStep c j) : s.SameConfig t := by
  obtain ⟨hframe, -, -⟩ := consumerStepsFrame s i t h hi
  rw [hframe]
  exact .refl s

/-- Outside IDLE every operation but RESET keeps the configuration: a host write is ignored, and no other agent has a
way to it (R88, R253). -/
theorem exec_sameConfig_of_not_idle {s t : State} {i : Instr} (hr : s.runState ≠ .idle) (h : exec i s = .next t)
    (hi : i ≠ .reset) : s.SameConfig t := by
  cases i with
  | mmioWr off v =>
    obtain ⟨-, rfl | ⟨hidle, -⟩ | ⟨hidle, -⟩⟩ := execMmioWr_next h
    · exact .refl _
    · exact absurd hidle hr
    · exact absurd hidle hr
  | mmioRd off => obtain ⟨-, ⟨v, rfl⟩ | rfl⟩ := execMmioRd_next h <;> exact .refl s
  | portWord w =>
    obtain ⟨hframe, -⟩ := portWordFrame.1 s w t h
    rw [hframe]
    exact .refl s
  | cTake => exact consumer_sameConfig h (.inl rfl)
  | cDeint => exact consumer_sameConfig h (.inr (.inl rfl))
  | cStep c j => exact consumer_sameConfig h (.inr (.inr (.inr ⟨c, j, rfl⟩)))
  | cEmit => exact consumer_sameConfig h (.inr (.inr (.inl rfl)))
  | reset => exact absurd rfl hi

/-- Settles O11: the config lock, and what every operation keeps under it. -/
theorem configurationIsLockedOutsideIdle : Obligations.ConfigurationIsLockedOutsideIdle :=
  fun _ hr => ⟨fun off v hf => exec_mmioWr_of_not_idle v hf hr off,
    fun _ _ hi h => exec_sameConfig_of_not_idle hr h hi⟩

/-! ## What the host reads (R252) -/

/-- MMIO_RD of a register with no word to give raises UNINIT_READ and does nothing else (R252, R285). -/
theorem exec_mmioRd_of_uninit {s : State} {off : BitVec 12} {r : MmioReg} (hf : s.faulted = none)
    (hreg : mmioReg s.params.s2TapsMax off = r) (hx : s.readReg r = .error (.raised .uninitRead)) :
    exec (.mmioRd off) s = .next (s.raise .uninitRead) := by
  show execMmioRd off s = _
  unfold execMmioRd
  rw [State.unlessFaulted_none hf, hreg, hx]
  rfl

section ReadCoef

variable {s : State} {k : Nat} {w : Word}

theorem State.readReg_s1Coef_of_some (h : s.s1Coef.read k = some w) : s.readReg (.s1Coef k) = .ok w := by
  rw [State.readReg, h]

theorem State.readReg_s1Coef_of_none (h : s.s1Coef.read k = none) :
    s.readReg (.s1Coef k) = .error (.raised .uninitRead) := by
  rw [State.readReg, h]

theorem State.readReg_s2Coef_of_some (h : s.s2Coef.read k = some w) : s.readReg (.s2Coef k) = .ok w := by
  rw [State.readReg, h]

theorem State.readReg_s2Coef_of_none (h : s.s2Coef.read k = none) :
    s.readReg (.s2Coef k) = .error (.raised .uninitRead) := by
  rw [State.readReg, h]

end ReadCoef

/-- Settles O12: per offset, the register it names reads as the stated word. -/
theorem hostReadEffect : Obligations.HostReadEffect := by
  intro s hp hf returns
  have gives {off : BitVec 12} {r : MmioReg} {x : Word} (hreg : mmioReg s.params.s2TapsMax off = r)
      (hx : s.readReg r = .ok x) : returns off x := exec_mmioRd_of_ok hf hreg hx
  have status : s.statusWord = BitVec.ofNat 32 (s.runState.code.toNat + 16 * s.err.code.toNat
      + 256 * s.cstate.code.toNat + 1024 * s.slotFull.toNat + 2048 * s.active.toNat) :=
    (BitVec.toNat_eq_nat.1 (by rw [s.statusWord_toNat]; omega)).2
  have cfg : s.cfgWord = BitVec.ofNat 32 (65536 * s.decim.toNat + 256 * s.s2Shift.toNat + s.channels.toNat) :=
    (BitVec.toNat_eq_nat.1 (by rw [s.cfgWord_toNat]; omega)).2
  have ntaps : s.ntaps.setWidth 32 = BitVec.ofNat 32 s.ntaps.toNat := (BitVec.ofNat_toNat 32 _).symm
  refine ⟨gives (r := .ctrl) rfl rfl, gives (r := .status) rfl (congrArg Except.ok status),
    gives (r := .cfg) rfl (congrArg Except.ok cfg), gives (r := .s2Ntaps) rfl (congrArg Except.ok ntaps),
    gives (r := .bufBase) rfl rfl, gives (r := .bufWords) rfl rfl, gives (r := .reqWords) rfl rfl,
    fun t ht => ⟨fun w hw => ?_, fun hnone => ?_⟩, fun k hk => ⟨fun w hw => ?_, fun hnone => ?_⟩,
    fun off _ hoff => gives (mmioReg_unmapped hoff) rfl⟩
  · exact gives (mmioReg_s1Coef _ ht) (State.readReg_s1Coef_of_some hw)
  · exact exec_mmioRd_of_uninit hf (mmioReg_s1Coef _ ht) (State.readReg_s1Coef_of_none hnone)
  · exact gives (mmioReg_s2Coef hk hp.2.1) (State.readReg_s2Coef_of_some hw)
  · exact exec_mmioRd_of_uninit hf (mmioReg_s2Coef hk hp.2.1) (State.readReg_s2Coef_of_none hnone)

/-! ## A START whose checks pass (R256, R257) -/

/-- BUFMEM after a START whose checks pass: the windows of the configured channels hold HIST_INIT (R257). -/
def State.startBufmem (s : State) : Memory :=
  s.bufmem.writeRun (s.histBase 0) (List.replicate (s.numChannels * 8) s.params.histInit)

theorem exec_start_of_setupCheck_none {s : State} {v : Word} (hf : s.faulted = none) (hidle : s.runState = .idle)
    (hv : v.getLsbD 0 = true) (hchk : s.setupCheck = .none) :
    exec (.mmioWr 0x000#12 v) s = .next (s.setBufmem s.startBufmem).setupRegs := by
  rw [exec_mmioWr_ctrl v hf, if_pos ⟨hv, hidle⟩]
  exact State.setup_of_none hchk

theorem State.startBufmem_read_window (s : State) {c k : Nat} (hc : c < s.numChannels) (hk : k < 8) :
    s.startBufmem.read (s.histBase c + k) = some s.params.histInit := by
  have haddr : s.histBase c + k = s.histBase 0 + (c * 8 + k) := by
    rw [State.histBase_eq, State.histBase_eq]
    omega
  have hlt : c * 8 + k < (List.replicate (s.numChannels * 8) s.params.histInit).length := by
    rw [List.length_replicate]
    omega
  rw [haddr, State.startBufmem, Memory.read_writeRun_inside _ _ hlt, List.getElem_replicate]

theorem State.startBufmem_read_outside (s : State) {a : Nat}
    (ha : a < s.histBase 0 ∨ s.histBase s.numChannels ≤ a) : s.startBufmem.read a = s.bufmem.read a := by
  refine Memory.read_writeRun_outside _ (ha.imp_right fun hhigh => ?_)
  rw [State.histBase_eq] at hhigh ⊢
  rw [List.length_replicate]
  omega

/-- Settles O18: the registers as START writes them, the windows word by word, and COUNT because L fits it. -/
theorem successfulStartInitialisesAndRuns : Obligations.SuccessfulStartInitialisesAndRuns :=
  fun s _ hf hidle hv hchk =>
    ⟨_, exec_start_of_setupCheck_none hf hidle hv hchk, fun _ hc _ hk => s.startBufmem_read_window hc hk,
      fun _ ha => s.startBufmem_read_outside ha, rfl, State.restartCount_toNat hchk⟩

end Sys2Proof.Machine
end

section
/-! PROOFS. The setup errors, the state FAULT that a failed START leaves, and what the port-ready interrupt leaves of the
consumer (R281 to R284, R290, R293). -/

namespace Sys2Proof.Machine

/-! ## The setup checks (R281, R284) -/

/-- Settles O16: the checks in R281's order, each error behind the checks before it that pass. -/
theorem setupErrorsHaveTheirPriority : Obligations.SetupErrorsHaveTheirPriority := by
  refine ⟨fun s => ?_, rfl⟩
  refine ⟨fun hC => ?_, fun hC hD => ?_, fun hC hD hNT => ?_, fun hC hD hpos hmax hwords => ?_,
    fun hC hD hpos hmax hwords hrange => ?_, fun hC hD hpos hmax hwords hrange => ?_⟩
  · exact if_pos (not_or.2 hC)
  all_goals
    have hchannels : ¬¬(s.numChannels = 1 ∨ s.numChannels = 2) := not_not.2 hC
    refine (if_neg hchannels).trans ?_
  · exact if_pos hD
  all_goals refine (if_neg hD).trans ?_
  · exact if_pos hNT
  all_goals
    have htaps : ¬(s.ntaps.toNat = 0 ∨ s.params.s2TapsMax < s.ntaps.toNat) := not_or.2 ⟨hpos, not_lt.2 hmax⟩
    refine (if_neg htaps).trans ?_
  · exact if_pos hwords
  all_goals refine (if_neg (not_not.2 hwords)).trans ?_
  · exact if_pos hrange
  · exact if_neg (not_lt.2 hrange)

/-! ## A START whose checks fail (R283) -/

theorem exec_start_of_setupCheck_ne_none {s : State} {v : Word} (hf : s.faulted = none) (hidle : s.runState = .idle)
    (hv : v.getLsbD 0 = true) (hchk : s.setupCheck ≠ .none) :
    exec (.mmioWr 0x000#12 v) s = .next (s.setupFail s.setupCheck) := by
  rw [exec_mmioWr_ctrl v hf, if_pos ⟨hv, hidle⟩]
  exact State.setup_of_error hchk

/-- Outside RUNNING no consumer step is enabled, wherever its controller stands (R221, R290). -/
theorem State.consumerStep_of_not_running {s : State} (hf : s.faulted = none) (hr : s.runState ≠ .running) (b : Bool)
    (r : Result) : s.consumerStep b r = .fault .notEnabled :=
  (State.unlessFaulted_none hf _).trans (if_neg fun h => hr h.1)

/-- Settles O17: the state a failed START leaves is neither RUNNING nor IDLE, and only RESET leaves FAULT. -/
theorem failedStartWritesOnlyTheError : Obligations.FailedStartWritesOnlyTheError := by
  intro s v hf hidle hv hchk
  have hf' : (s.setupFail s.setupCheck).faulted = none := hf
  have hrunning : (s.setupFail s.setupCheck).runState ≠ .running := nofun
  refine ⟨_, exec_start_of_setupCheck_ne_none hf hidle hv hchk, rfl,
    fun w => exec_portWord_of_not_running w hf' hrunning, fun i hi => ?_,
    fun _ _ => State.consumerStep_of_not_running hf' hrunning _ _,
    fun off u => exec_mmioWr_of_not_idle u hf' nofun off, fun i u hi h => ?_⟩
  · simp only [List.mem_cons, List.not_mem_nil, or_false] at hi
    rcases hi with rfl | rfl | rfl <;> exact State.consumerStep_of_not_running hf' hrunning _ _
  · obtain ⟨-, hkeeps, -⟩ := onlyResetLeavesRunningOrFault _ i u h hi
    exact (hkeeps rfl).1

/-! ## The consumer across a port word (R87, R293) -/

/-- The next port word goes below every history window: the windows lie above both regions (R73). -/
theorem State.Inv.fillAddr_lt_histBase {s : State} (h : s.Inv) (hf : s.faulted = none) (hr : s.runState = .running)
    (c : Nat) : s.fillAddr < s.histBase c := by
  have hrun : s.RunInv := h.running hr hf
  obtain ⟨hchk, -⟩ := h.running hr hf
  obtain ⟨-, -, -, -, -, -, hregion, -⟩ := State.geometry hchk h.shaped.params
  have hregionEnd := (hregion s.active).2
  have hfill := hrun.fillAddr_bounds.2
  rw [State.histBase_eq]
  omega

/-- Settles O21: the frame of PORT_WORD, whose one store goes below the windows. -/
theorem producerLeavesTheConsumerUntouched : Obligations.ProducerLeavesTheConsumerUntouched := by
  intro s w t hinv h
  obtain ⟨hframe, hstore⟩ := portWordFrame.1 s w t h
  have hf : s.faulted = none := (execPortWord_next h).1
  have windows (hr : s.runState = .running) (c k : Nat) :
      t.bufmem.read (s.histBase c + k) = s.bufmem.read (s.histBase c + k) :=
    hstore _ (.inl (Nat.ne_of_gt (Nat.lt_add_right k (hinv.fillAddr_lt_histBase hf hr c))))
  refine ⟨?_, ?_, ?_, ?_, ?_, ?_, ?_, ?_, fun hr c _ k _ => windows hr c k⟩ <;> rw [hframe]

end Sys2Proof.Machine
end

section
/-! PROOFS. The real-time contract (R320): a run from START keeps it as long as the producer finds its region free and the
slot empty. What the contract counts, port words, takes and frames, fixes COUNT, SLOT_FULL and CUR_VALID. -/

namespace Sys2Proof.Machine

/-! ## The contract, one port event at a time -/

/-- What RtOk asks of a port event that comes after `ports` others, `takes` C_TAKEs and `emits` C_EMITs (R320). -/
def PortInTime (l ports takes emits : Nat) : Prop :=
  ∀ n ≥ 1, (ports + 1 = (n + 1) * l → n ≤ takes) ∧ (ports + 1 = (n + 1) * l + 1 → n ≤ emits)

/-- What RtOk asks of the operation `i` that comes after `is`: a port event is in time (R320). -/
def InTime (l : Nat) (is : List Instr) (i : Instr) : Prop :=
  isPortOp i = true → PortInTime l (is.countP isPortOp) (is.count .cTake) (is.count .cEmit)

theorem rtOk_nil (l : Nat) : RtOk l [] := by
  intro n _ before w after h
  simp at h

/-- A longer run keeps the contract when the shorter one does and its last operation is in time. -/
theorem rtOk_concat (l : Nat) (is : List Instr) (i : Instr) : RtOk l (is ++ [i]) ↔ RtOk l is ∧ InTime l is i := by
  constructor
  · intro h
    refine ⟨fun n hn before w after heq => ?_, fun hport n hn => ?_⟩
    · exact h n hn before w (after ++ [i]) (by rw [heq, List.append_assoc]; rfl)
    · cases i with
      | portWord w => exact h n hn is w [] rfl
      | _ => cases hport
  · rintro ⟨h, hlast⟩ n hn before w after heq
    rcases List.eq_nil_or_concat after with rfl | ⟨after, j, rfl⟩
    · obtain ⟨rfl, rfl⟩ : is = before ∧ i = .portWord w := by simpa using heq
      exact hlast rfl n hn
    · rw [List.concat_eq_append, ← List.cons_append, ← List.append_assoc] at heq
      exact h n hn before w after (List.append_inj_left' heq rfl)

/-- Counted from the registers: with `count` words of a region to go, the port event is out of time exactly where a
buffer is held while another waits in the slot, or where the region is full and the slot is. -/
theorem portInTime_iff {l ports takes emits count : Nat} {slot held : Bool} (hpos : 1 ≤ count) (hle : count ≤ l)
    (hfull : held = true → slot = true → count = l) (hfilled : ports + count = (takes + slot.toNat + 1) * l)
    (htaken : takes = emits + held.toNat) :
    PortInTime l ports takes emits ↔ ¬(held = true ∧ slot = true) ∧ ¬(count = 1 ∧ slot = true) := by
  constructor
  · refine fun h => ⟨?_, ?_⟩
    · rintro ⟨rfl, rfl⟩
      obtain rfl := hfull rfl rfl
      have hports : ports = (takes + 1) * count := by
        rw [Bool.toNat_true, Nat.succ_mul] at hfilled
        exact Nat.add_right_cancel hfilled
      rw [Bool.toNat_true] at htaken
      have := (h takes (by omega)).2 (by rw [hports])
      omega
    · rintro ⟨rfl, rfl⟩
      have := (h (takes + 1) (by omega)).1 hfilled
      omega
  · rintro ⟨hfree, hempty⟩ n -
    refine ⟨fun hport => ?_, fun hport => ?_⟩ <;> by_contra hlate
    · have hmul : (takes + 1 + 1) * l ≤ (n + 1) * l := Nat.mul_le_mul_right l (by omega)
      rw [Nat.succ_mul] at hmul
      cases slot with
      | false =>
        rw [Bool.toNat_false, Nat.add_zero] at hfilled
        omega
      | true =>
        rw [Bool.toNat_true, Nat.succ_mul] at hfilled
        exact hempty ⟨by omega, rfl⟩
    · have hbuffers : held.toNat + slot.toNat ≤ 1 := by
        cases held with
        | false => exact Nat.zero_add _ ▸ slot.toNat_le
        | true => rw [Bool.eq_false_iff.2 fun hslot => hfree ⟨rfl, hslot⟩, Bool.toNat_true, Bool.toNat_false]
      have hmul : (emits + 1 + 1) * l ≤ (n + 1) * l := Nat.mul_le_mul_right l (by omega)
      have hmost : (takes + slot.toNat + 1) * l ≤ (emits + 1 + 1) * l := Nat.mul_le_mul_right l (by omega)
      omega

/-! ## What each operation does to the contract -/

/-- The model faults the contract rules out (R286, R287). -/
def State.NoHazard (s : State) : Prop := s.faulted ≠ some .slotOverrun ∧ s.faulted ≠ some .tear

theorem State.noHazard_of_none {s : State} (h : s.faulted = none) : s.NoHazard := by
  simp [State.NoHazard, h]

/-- The block runs with regions of `l` words, and its registers agree with the steps `is` since START: the words received
and the COUNT words still to go fill the buffers taken, the one in the slot and the region ACTIVE, and every buffer taken
is delivered or held (R145, R222, R229). -/
structure State.Tally (s : State) (l : Nat) (is : List Instr) : Prop where
  inv : s.Inv
  running : s.runState = .running
  regionLen : s.regionLen = l
  filled : is.countP isPortOp + s.count.toNat = (is.count .cTake + s.slotFull.toNat + 1) * l
  taken : is.count .cTake = is.count .cEmit + s.curValid.toNat

/-- The producer finds its region held exactly where a buffer is held while another waits: then the producer has come
round to the held one (R87, R286). -/
theorem State.RunInv.tears_iff_held {s : State} (h : s.RunInv) (hp : s.params.wf) :
    s.tears = true ↔ s.curValid = true ∧ s.slotFull = true := by
  obtain ⟨hchk, -, ho, -⟩ := h
  obtain ⟨-, -, hpos, -, -, -, -, hapart⟩ := State.geometry hchk hp
  rw [State.tears_iff]
  refine and_congr_right fun hv => ?_
  rw [ho.held hv]
  split_ifs with hslot
  · simp [hslot]
  · have := hapart s.active
    simp only [hslot, iff_false, Bool.false_eq_true]
    omega

/-- A port word raises TEAR or SLOT_OVERRUN exactly where one of the producer's two checks finds it due (R143, R144). -/
theorem exec_portWord_noHazard_iff {s t : State} {w : Word} (hf : s.faulted = none) (hr : s.runState = .running)
    (e : exec (.portWord w) s = .next t) : t.NoHazard ↔ s.tears = false ∧ ¬(s.count = 1 ∧ s.slotFull = true) := by
  rw [exec_portWord_of_running w hf hr] at e
  rcases State.producerHandler_next e with ⟨htear, rfl⟩ |
    ⟨htear, -, ⟨hcount, rfl⟩ | ⟨hcount, hslot, rfl⟩ | ⟨hcount, hslot, rfl⟩⟩
  · exact iff_of_false (fun h => h.2 rfl) fun h => nomatch htear.symm.trans h.1
  · refine iff_of_true (State.noHazard_of_none ?_) ⟨htear, fun h => hcount h.1⟩
    exact hf
  · exact iff_of_false (fun h => h.1 rfl) fun h => h.2 ⟨hcount, hslot⟩
  · refine iff_of_true (State.noHazard_of_none ?_) ⟨htear, fun h => nomatch hslot.symm.trans h.2⟩
    simpa [State.stored] using hf

section Step

variable {s t : State} {l : Nat} {is : List Instr} {i : Instr} (h : s.Tally l is)
include h

/-- One operation further: the words received, published and still counted balance, and so do the buffers taken, delivered
and held. -/
theorem State.Tally.concat (e : exec i s = .next t) (hi : i ≠ .reset)
    (hfilled : [i].countP isPortOp + t.count.toNat + s.slotFull.toNat * s.regionLen =
      s.count.toNat + ([i].count .cTake + t.slotFull.toNat) * s.regionLen)
    (htaken : [i].count .cTake + s.curValid.toNat = [i].count .cEmit + t.curValid.toNat) :
    t.Tally l (is ++ [i]) := by
  obtain ⟨hinv, hr, rfl, hf, ht⟩ := h
  obtain ⟨hrunning, -⟩ := onlyResetLeavesRunningOrFault s i t e hi
  obtain ⟨hchannels, -, hdecim, -⟩ := exec_sameConfig_of_not_idle (by simp [hr]) e hi
  refine ⟨hinv.exec e, (hrunning hr).1, ?_, ?_, ?_⟩
  · rw [State.regionLen, State.numChannels, State.decimation, hchannels, hdecim]
    rfl
  · rw [List.countP_append, List.count_append]
    simp only [Nat.add_mul] at hf hfilled ⊢
    omega
  · rw [List.count_append, List.count_append]
    omega

variable (hf : s.faulted = none)
include hf

/-- A port event is in time exactly where the producer finds neither check due. -/
theorem State.Tally.portInTime_iff :
    PortInTime l (is.countP isPortOp) (is.count .cTake) (is.count .cEmit) ↔
      s.tears = false ∧ ¬(s.count = 1 ∧ s.slotFull = true) := by
  obtain ⟨hinv, hr, rfl, hfilled, htaken⟩ := h
  have hrun : s.RunInv := hinv.running hr hf
  obtain ⟨-, r50, ho, -⟩ := hinv.running hr hf
  obtain ⟨hpos, hle⟩ := r50.a
  have hone : s.count.toNat = 1 ↔ s.count = 1 := by bv_omega
  rw [Machine.portInTime_iff hpos hle ho.full hfilled htaken, ← hrun.tears_iff_held hinv.shaped.params,
    Bool.not_eq_true, hone]

/-- A port word that raises no model fault fills one word more, and the last word of a region publishes it (R144). -/
theorem State.Tally.portWord {w : Word} (e : exec (.portWord w) s = .next t) (hft : t.faulted = none) :
    t.Tally l (is ++ [.portWord w]) := by
  obtain ⟨hchk, r50, -, -⟩ := h.inv.running h.running hf
  obtain ⟨hpos, -⟩ := r50.a
  have hp := e
  rw [exec_portWord_of_running w hf h.running] at hp
  rcases State.producerHandler_next hp with ⟨-, rfl⟩ | ⟨-, -, ⟨-, rfl⟩ | ⟨-, -, rfl⟩ | ⟨hcount, hslot, rfl⟩⟩
  · cases hft
  · refine h.concat e nofun ?_ rfl
    show 1 + (s.count - 1).toNat + _ = _ + (0 + s.slotFull.toNat) * _
    rw [Nat.zero_add, Nat.add_right_cancel_iff]
    bv_omega
  · cases hft
  · have hslot : s.slotFull = false := hslot
    have hcount : s.count = 1 := hcount
    rw [State.log_active, State.published_eq] at e ⊢
    refine h.concat e nofun ?_ rfl
    show 1 + (BitVec.ofNat 18 s.regionLen).toNat + _ = _ + (0 + 1) * _
    rw [State.restartCount_toNat hchk, hslot, hcount]
    simp

/-- What the operations that the tally does not count leave of its registers, and that they raise no model fault but
UNINIT_READ (R285 to R288, R297). -/
theorem exec_uncounted (e : exec i s = .next t) (hi : i ∉ [.reset, .cTake, .cEmit]) (hport : isPortOp i = false) :
    (t.count = s.count ∧ t.slotFull = s.slotFull ∧ t.curValid = s.curValid) ∧ t.NoHazard := by
  obtain ⟨hinv, hr, -⟩ := h
  cases i with
  | mmioWr off v =>
    rw [exec_mmioWr_of_not_idle v hf (by simp [hr])] at e
    obtain rfl := Host.Outcome.next.inj e
    exact ⟨⟨rfl, rfl, rfl⟩, State.noHazard_of_none hf⟩
  | mmioRd off =>
    obtain ⟨-, ⟨v, rfl⟩ | rfl⟩ := execMmioRd_next e
    · exact ⟨⟨rfl, rfl, rfl⟩, State.noHazard_of_none hf⟩
    · exact ⟨⟨rfl, rfl, rfl⟩, nofun, nofun⟩
  | portWord w => cases hport
  | cDeint =>
    obtain ⟨-, -, hc, e⟩ := (State.consumerStep_next ..).1 e
    obtain ⟨u, hu⟩ := hinv.deinterleave_runs hr hf (beq_iff_eq.1 hc)
    rw [hu] at e
    obtain rfl := Host.Outcome.next.inj e
    rw [State.deinterleave_frame hu]
    exact ⟨⟨rfl, rfl, rfl⟩, State.noHazard_of_none hf⟩
  | cStep c j =>
    obtain ⟨-, -, -, -, -, hstep⟩ := execCStep_next e
    refine ⟨?_, ?_⟩
    · rw [State.filterStep_frame hstep]
      exact ⟨rfl, rfl, rfl⟩
    · rcases State.filterStep_next hstep with rfl | ⟨w, window, coefs, -, -, -, ⟨-, -, rfl⟩ | ⟨-, v, -, rfl⟩ | ⟨-, rfl⟩⟩
      · exact ⟨nofun, nofun⟩
      · exact ⟨nofun, nofun⟩
      · exact State.noHazard_of_none ((State.advance_faulted _ _ _).trans hf)
      · exact State.noHazard_of_none ((State.advance_faulted _ _ _).trans hf)
  | _ => simp at hi

/-- The operations that the tally does not count keep it, and raise neither fault. -/
theorem State.Tally.uncounted (e : exec i s = .next t) (hi : i ∉ [.reset, .cTake, .cEmit])
    (hport : isPortOp i = false) : t.Tally l (is ++ [i]) ∧ t.NoHazard := by
  obtain ⟨⟨hcount, hslot, hheld⟩, hnone⟩ := exec_uncounted h hf e hi hport
  simp only [List.mem_cons, List.not_mem_nil, or_false, not_or] at hi
  obtain ⟨hreset, htake, hemit⟩ := hi
  refine ⟨h.concat e hreset ?_ ?_, hnone⟩
  · simp [hport, htake, hcount, hslot]
  · simp [htake, hemit, hheld]

/-- Each operation that raises no model fault keeps the tally, and it is in time exactly where it raises neither
SLOT_OVERRUN nor TEAR. -/
theorem State.Tally.operation (e : exec i s = .next t) (hi : i ≠ .reset) :
    (t.faulted = none → t.Tally l (is ++ [i])) ∧ (InTime l is i ↔ t.NoHazard) := by
  obtain ⟨-, r50, -, -⟩ := h.inv.running h.running hf
  have inTime (hport : isPortOp i = false) : InTime l is i := fun hp => nomatch hport.symm.trans hp
  cases i with
  | portWord w =>
    refine ⟨fun hft => h.portWord hf e hft, ?_⟩
    rw [exec_portWord_noHazard_iff hf h.running e, ← h.portInTime_iff hf]
    exact ⟨fun hin => hin rfl, fun hin _ => hin⟩
  | cTake =>
    obtain ⟨-, -, hc, hs, rfl⟩ := execCTake_next e
    have hfree : s.curValid = false := Bool.eq_false_iff.2 fun hv => r50.d.1 hv hc
    refine ⟨fun _ => h.concat e hi ?_ ?_, iff_of_true (inTime rfl) (State.noHazard_of_none hf)⟩
    · simp [hs, isPortOp]
    · simp [hfree]
  | cEmit =>
    obtain ⟨-, -, hc, rfl⟩ := execCEmit_next e
    have hheld : s.curValid = true := r50.d.2 (by simp [hc])
    refine ⟨fun _ => h.concat e hi ?_ ?_, iff_of_true (inTime rfl) (State.noHazard_of_none hf)⟩
    · simp [isPortOp]
    · simp [hheld]
  | reset => exact absurd rfl hi
  | _ =>
    obtain ⟨htally, hnone⟩ := h.uncounted hf e (by simp) rfl
    exact ⟨fun _ => htally, iff_of_true (inTime rfl) hnone⟩

end Step

/-! ## Along a run -/

theorem runOps_concat_next {is : List Instr} {i : Instr} {s t : State} (h : runOps (is ++ [i]) s = .next t) :
    ∃ u, runOps is s = .next u ∧ exec i u = .next t := by
  induction is generalizing s with
  | nil =>
    obtain ⟨u, hu, hend⟩ := runOps_cons_next h
    obtain rfl : u = t := Host.Outcome.next.inj hend
    exact ⟨s, rfl, hu⟩
  | cons j js ih =>
    obtain ⟨r, hr, hrest⟩ := runOps_cons_next h
    obtain ⟨u, hu, hlast⟩ := ih hrest
    exact ⟨u, (runOps_cons_of_next hr).trans hu, hlast⟩

/-- A host write raises no model fault (R251). -/
theorem exec_mmioWr_faulted {s t : State} {off : BitVec 12} {v : Word} (e : exec (.mmioWr off v) s = .next t) :
    t.faulted = none := by
  obtain ⟨hf, rfl | ⟨-, -, -, hsetup⟩ | ⟨-, rfl⟩⟩ := execMmioWr_next e
  · exact hf
  · rcases State.setup_next hsetup with ⟨-, rfl⟩ | ⟨-, rfl⟩ <;> exact hf
  · rwa [State.writeConfig_faulted]

theorem StartsIn.faulted {s : State} (h : StartsIn s) : s.faulted = none := by
  obtain ⟨_, _, -, e, -⟩ := h
  exact exec_mmioWr_faulted e

/-- At START a whole region is still counted, and nothing is published, taken or held (R257). -/
theorem StartsIn.tally {s : State} (h : StartsIn s) (hinv : s.Inv) : s.Tally s.regionLen [] := by
  obtain ⟨hr, -, hcount, -⟩ := h.producer
  obtain ⟨hslot, hc⟩ := h.consumer
  obtain ⟨-, r50, -⟩ := hinv.running hr h.faulted
  have hfree : s.curValid = false := Bool.eq_false_iff.2 fun hv => r50.d.1 hv hc
  exact ⟨hinv, hr, rfl, by simp [hcount, hslot], by simp [hfree]⟩

/-- A run from START without a RESET keeps the tally as long as no model fault is recorded, and keeps the contract as long
as none of its two faults is. -/
theorem RunsTo.tally_and_rtOk {s t : State} {is : List Instr} (hstart : StartsIn s) (hinv : s.Inv)
    (hrun : RunsTo s is t) :
    (t.faulted = none → t.Tally s.regionLen is) ∧ (RtOk s.regionLen is ↔ t.NoHazard) := by
  induction is using List.reverseRecOn generalizing t with
  | nil =>
    obtain rfl : s = t := Host.Outcome.next.inj hrun.2
    exact ⟨fun _ => hstart.tally hinv, iff_of_true (rtOk_nil _) (State.noHazard_of_none hstart.faulted)⟩
  | append_singleton is i ih =>
    obtain ⟨hreset, e⟩ := hrun
    simp only [List.mem_append, List.mem_singleton, not_or] at hreset
    obtain ⟨hreset, hi⟩ := hreset
    obtain ⟨u, hu, hlast⟩ := runOps_concat_next e
    obtain ⟨htally, hok⟩ := ih ⟨hreset, hu⟩
    have hf : u.faulted = none := by
      by_contra hne
      obtain ⟨k, hk⟩ := Option.ne_none_iff_exists'.1 hne
      rw [exec_of_faulted hk (Ne.symm hi)] at hlast
      cases hlast
    obtain ⟨hkept, hin⟩ := (htally hf).operation hf hlast (Ne.symm hi)
    refine ⟨hkept, ?_⟩
    rw [rtOk_concat, hin]
    exact and_iff_right (hok.2 (State.noHazard_of_none hf))

/-- Settles O49: the contract asks of each port event what the producer's two checks ask. -/
theorem realTimeContractIsExactlyNoOverrunNoTear : Obligations.RealTimeContractIsExactlyNoOverrunNoTear :=
  fun _ _ _ hstart hinv hrun => (hrun.tally_and_rtOk hstart hinv).2

end Sys2Proof.Machine
end

section
/-! PROOFS. The state RESET leaves (R310, R311), the boot sequence (R312), and the filter step that meets an unwritten
coefficient (R323). -/

namespace Sys2Proof.Machine

/-! ## RESET (R310, R311) -/

/-- Settles O50: the block is in IDLE, and its memories are clear. -/
theorem invariantHoldsAfterReset : Obligations.InvariantHoldsAfterReset := fun _ => State.resetWith_inv

/-- What RESET leaves is `afterReset`, from every state (R310). -/
theorem exec_reset (s : State) : exec .reset s = .next (s.afterReset (State.resetWith s.params)) := rfl

/-- Settles O59: `afterReset` takes every register but DL, PH and FRM from the state after power-on. -/
theorem resetEffect : Obligations.ResetEffect := fun s =>
  ⟨_, exec_reset s, rfl, fun _ => ⟨rfl, rfl, rfl⟩, rfl, rfl, rfl, rfl, rfl, rfl, rfl, rfl, rfl, rfl, rfl, rfl, rfl, rfl,
    rfl, rfl, rfl, rfl⟩

/-- After RESET STATUS reads 0 (R109, R311). -/
theorem State.afterReset_statusWord (s : State) :
    (s.afterReset (State.resetWith s.params)).statusWord = 0#32 := by
  simp [State.statusWord, State.resetWith, RunState.code, SetupError.code, CState.code]

/-- After RESET CFG reads 0 (R109, R311). -/
theorem State.afterReset_cfgWord (s : State) : (s.afterReset (State.resetWith s.params)).cfgWord = 0#32 := by
  simp [State.cfgWord, State.resetWith]

/-- Settles O60: each register of the state after reset, read; and the block is in IDLE. -/
theorem resetStateSummary : Obligations.ResetStateSummary := by
  intro s t hp e
  obtain rfl : s.afterReset (State.resetWith s.params) = t := Host.Outcome.next.inj e
  have hf : (s.afterReset (State.resetWith s.params)).faulted = none := rfl
  have hr : (s.afterReset (State.resetWith s.params)).runState ≠ .running := nofun
  obtain ⟨htake, hdeint, hstep, hemit⟩ := (consumerStepsRunExactlyWhenEnabled _).1 hf
  refine ⟨fun off hoff => ?_, fun k hk => ?_, fun k hk => ?_, fun w => exec_portWord_of_not_running w hf hr,
    fun i hi => ?_, fun c j => (hstep c j).2 fun h => hr h.1⟩
  · simp only [List.mem_cons, List.not_mem_nil, or_false] at hoff
    rcases hoff with rfl | rfl | rfl | rfl | rfl | rfl | rfl
    · exact exec_mmioRd_of_ok hf (r := .ctrl) rfl rfl
    · exact exec_mmioRd_of_ok hf (r := .status) rfl (congrArg Except.ok s.afterReset_statusWord)
    · exact exec_mmioRd_of_ok hf (r := .cfg) rfl (congrArg Except.ok s.afterReset_cfgWord)
    · exact exec_mmioRd_of_ok hf (r := .s2Ntaps) rfl rfl
    · exact exec_mmioRd_of_ok hf (r := .bufBase) rfl rfl
    · exact exec_mmioRd_of_ok hf (r := .bufWords) rfl rfl
    · exact exec_mmioRd_of_ok hf (r := .reqWords) rfl rfl
  · exact exec_mmioRd_of_uninit hf (mmioReg_s1Coef _ hk) (State.readReg_s1Coef_of_none rfl)
  · exact exec_mmioRd_of_uninit hf (mmioReg_s2Coef hk hp.2.1) (State.readReg_s2Coef_of_none rfl)
  · simp only [List.mem_cons, List.not_mem_nil, or_false] at hi
    rcases hi with rfl | rfl | rfl
    · exact htake.2 fun h => hr h.1
    · exact hdeint.2 fun h => hr h.1
    · exact hemit.2 fun h => hr h.1

/-! ## The boot sequence (R312) -/

/-- The state once the four configuration registers are written, which is what SETUP_CHECK sees (R251, R312). -/
def State.configure (s : State) (cfg nt base words : Word) : State :=
  (((s.writeConfig .cfg cfg).writeConfig .s2Ntaps nt).writeConfig .bufBase base).writeConfig .bufWords words

/-- In IDLE a configuration write is done and the run goes on, still in IDLE. -/
theorem runOps_mmioWr_of_idle {s : State} {off : BitVec 12} {r : MmioReg} (v : Word) (is : List Instr)
    (hf : s.faulted = none) (hidle : s.runState = .idle) (hreg : mmioReg s.params.s2TapsMax off = r) (hne : r ≠ .ctrl) :
    runOps (.mmioWr off v :: is) s = runOps is (s.writeConfig r v) :=
  runOps_cons_of_next (exec_mmioWr_of_idle v hf hreg hidle hne)

/-- In IDLE the four writes of the boot sequence run, one after the other. -/
theorem runOps_configure {s : State} (hf : s.faulted = none) (hidle : s.runState = .idle) (cfg nt base words : Word)
    (is : List Instr) :
    runOps (.mmioWr 0x008#12 cfg :: .mmioWr 0x00C#12 nt :: .mmioWr 0x010#12 base :: .mmioWr 0x014#12 words :: is) s =
      runOps is (s.configure cfg nt base words) :=
  (runOps_mmioWr_of_idle (r := .cfg) cfg _ hf hidle rfl nofun).trans <|
    (runOps_mmioWr_of_idle (r := .s2Ntaps) nt _ (by exact hf) (by exact hidle) rfl nofun).trans <|
      (runOps_mmioWr_of_idle (r := .bufBase) base _ (by exact hf) (by exact hidle) rfl nofun).trans <|
        runOps_mmioWr_of_idle (r := .bufWords) words _ (by exact hf) (by exact hidle) rfl nofun

/-- Outside FAULT no setup error is recorded (R34). -/
theorem State.Shaped.err_none {s : State} (h : s.Shaped) (hr : s.runState ≠ .fault) : s.err = .none :=
  not_not.1 fun he => hr (h.err he)

/-- Settles O19: the written configuration passes SETUP_CHECK, so START runs. -/
theorem bootSequenceStartsTheBlock : Obligations.BootSequenceStartsTheBlock := by
  intro s cfg nt base words hinv hf hidle C D hC hD hpos hmax hwords hfit
  have hsize : (s.configure cfg nt base words).reqSize = words.toNat := hwords.symm
  have hchk : (s.configure cfg nt base words).setupCheck = .none :=
    State.setupCheck_none.2 ⟨hC, hD, hpos, hmax, hwords, by rwa [hsize]⟩
  have hstart := exec_start_of_setupCheck_none (s := s.configure cfg nt base words) (v := 1#32) hf hidle rfl hchk
  refine ⟨_, (runOps_configure hf hidle cfg nt base words _).trans (runOps_cons_of_next hstart), rfl, ?_, hf, rfl, rfl,
    rfl, rfl, rfl⟩
  exact hinv.shaped.err_none (by simp [hidle])

/-! ## Unwritten coefficients (R288, R323) -/

/-- C_STEP's work is abandoned before anything is written where stage 1 cannot read its coefficients (R185, R285). -/
theorem State.filterStep_of_uninit {s : State} {c : BitVec 1} {j : BitVec 16} {w : Word} {window : List Word}
    (hw : s.memRead (s.cur.toNat + c.toNat * s.decimation + j.toNat) = .ok w)
    (hwin : s.memReads (s.histBase c.toNat) 8 = .ok window)
    (hcoefs : readCoefs s.s1Coef 0 256 = .error (.raised .uninitRead)) :
    s.filterStep c j = .next (s.raise .uninitRead) := by
  have hstage1 : s.s1Step c w = .error (.raised .uninitRead) := by
    unfold State.s1Step
    simp only [Config.histWords, Config.s1Taps, hwin, hcoefs]
  unfold State.filterStep
  simp only [hw, hstage1]
  rfl

/-- Settles O44: stage 1 reads its coefficients in every step, stage 2 in the step for the channel's last word. -/
theorem unwrittenCoefficientFaultsTheFilterStep : Obligations.UnwrittenCoefficientFaultsTheFilterStep := by
  intro s hinv hf hr hc
  obtain ⟨⟨w, hw⟩, window, hwin⟩ := hinv.filter_reads hr hf hc
  rw [exec_cStep_of_enabled hf hr hc]
  refine ⟨fun ⟨t, ht, hnone⟩ => ?_, fun hwritten hlast ⟨k, hk, hnone⟩ => ?_⟩
  · exact State.filterStep_of_uninit hw hwin (readCoefs_of_unwritten ht (by rwa [Nat.zero_add]))
  · obtain ⟨k1, hk1⟩ : ∃ k1, readCoefs s.s1Coef 0 256 = .ok k1 :=
      readCoefs_of_marked fun t ht => Option.isSome_iff_ne_none.2 (by rw [Nat.zero_add]; exact hwritten t ht)
    obtain ⟨-, hcycle⟩ := hinv.filter_phase hr hf hc
    have hout : (s.filtered s.ch w window k1).s2Output s.ch = .error (.raised .uninitRead) :=
      State.s2Output_of_error (readCoefs_of_unwritten hk (by rwa [Nat.zero_add]))
    refine ⟨(s.filtered s.ch w window k1).raise .uninitRead, ?_, rfl⟩
    rw [State.filterStep_of hw hwin hk1, if_pos (hcycle.2 hlast), hout]
    rfl

end Sys2Proof.Machine
end
